-- ==== Sys2Proof/Word.lean ====
section
/-! DEFINITION. The word types of the PAE CORE codec (00_scope.md R11, 10_state.md R21, 42_codec_a_planes.md R194). -/

namespace Sys2Proof

/-- A byte of a buffer or of a stream, bits 7 to 0. -/
abbrev Byte := BitVec 8

/-- A host register value, bit 0 least significant (20_memory.md R63). -/
abbrev Word := BitVec 32

/-- Two horizontally adjacent pixels of one plane, the left pixel as the high bit (42_codec_a_planes.md R194). -/
abbrev Pair := BitVec 2

end Sys2Proof
end

