-- ==== Sys2Proof/Machine/Err.lean ====
section
/-! DEFINITION. The error codes and classes of 60_exceptions.md R371 and R372. An error is a value that an operation
completes with, never a stop of the machine (R370). -/

namespace Sys2Proof

/-- The thirteen errors of 60_exceptions.md R371, in code order. -/
inductive Err where
  | invalidOperation
  | invalidLength
  | invalidWidth
  | invalidMode
  | invalidAlignment
  | invalidImageSize
  | nonSquareImage
  | runLengthOverflow
  | dataOverflow
  | truncatedStream
  | invalidOffset
  | invalidCommand
  | outputOverflow
  deriving DecidableEq, Repr

/-- STATUS.ERRCODE of an error (60_exceptions.md R371). -/
def Err.code : Err → BitVec 4
  | .invalidOperation => 1
  | .invalidLength => 2
  | .invalidWidth => 3
  | .invalidMode => 4
  | .invalidAlignment => 5
  | .invalidImageSize => 6
  | .nonSquareImage => 7
  | .runLengthOverflow => 8
  | .dataOverflow => 9
  | .truncatedStream => 10
  | .invalidOffset => 11
  | .invalidCommand => 12
  | .outputOverflow => 13

/-- STATUS.ERRCLASS of an error: 1 InvalidParameter, 2 MalformedStream, 3 Capacity (60_exceptions.md R372). -/
def Err.cls : Err → BitVec 2
  | .invalidOperation => 1
  | .invalidLength => 1
  | .invalidWidth => 1
  | .invalidMode => 1
  | .invalidAlignment => 1
  | .invalidImageSize => 1
  | .nonSquareImage => 2
  | .runLengthOverflow => 2
  | .dataOverflow => 2
  | .truncatedStream => 2
  | .invalidOffset => 2
  | .invalidCommand => 2
  | .outputOverflow => 3

end Sys2Proof
end

