-- ==== Sys2Proof/Machine/BitCursor.lean ====
section
/-! DEFINITION. The bit-cursor engine over bit sequences (41_bit_cursor.md R172, R175, R176) and the MSB-first order of
20_memory.md R61. A bit sequence is a list in emission order: its head is the first bit read or written. -/

namespace Sys2Proof

/-- `v[k]` of an integer as a bit (00_scope.md R11). -/
def bitsOfNat : Nat → Nat → List Bool
  | 0, _ => []
  | n + 1, v => v.testBit n :: bitsOfNat n v

/-- The loop of `ReadBits` with `v` accumulated so far (41_bit_cursor.md R172). -/
def readBitsFrom : Nat → Nat → List Bool → Except Err (Nat × List Bool)
  | 0, v, bits => .ok (v, bits)
  | _ + 1, _, [] => .error .truncatedStream
  | n + 1, v, b :: bits => readBitsFrom n (2 * v + b.toNat) bits

/-- `ReadBits(N)`: N bits as an unsigned integer, first bit most significant, and the bits left. TRUNCATED_STREAM where
the input ends first (41_bit_cursor.md R171, R172). -/
def readBits (n : Nat) (bits : List Bool) : Except Err (Nat × List Bool) :=
  readBitsFrom n 0 bits

/-- The eight bits of a byte, bit 7 first (20_memory.md R61). -/
def bitsOfByte (b : Byte) : List Bool :=
  bitsOfNat 8 b.toNat

/-- A byte sequence as the bit sequence the cursor reads from it (20_memory.md R61, 41_bit_cursor.md R170). -/
def bitsOfBytes (bs : List Byte) : List Bool :=
  bs.flatMap bitsOfByte

/-- The unsigned integer a bit sequence spells, first bit most significant. -/
def natOfBits (bits : List Bool) : Nat :=
  bits.foldl (fun v b => 2 * v + b.toNat) 0

/-- One byte from at most eight bits, most significant first, zero bits below the last one (41_bit_cursor.md R176). -/
def byteOfBits (bits : List Bool) : Byte :=
  BitVec.ofNat 8 (natOfBits (bits ++ List.replicate (8 - bits.length) false))

/-- The first `m` bytes of `Pack`. -/
def packBytes : Nat → List Bool → List Byte
  | 0, _ => []
  | m + 1, bits => byteOfBits (bits.take 8) :: packBytes m (bits.drop 8)

/-- `Pack(wb)`: a bit sequence as `ceil(len / 8)` bytes, most significant bit first, the last byte padded with zero bits
(41_bit_cursor.md R176). -/
def pack (bits : List Bool) : List Byte :=
  packBytes ((bits.length + 7) / 8) bits

end Sys2Proof
end

