-- ==== Sys2Proof/Config.lean ====
section
/-! DEFINITION. What an implementation fixes (00_scope.md R8 to R10) and the free values, which no rule fixes. -/

namespace Sys2Proof

/-- The parameters the source leaves open (00_scope.md R10). The codec functions take them as an argument, and the machine
has them in its state (log 10). -/
structure Params where
  /-- P_BUF_SIZE: bytes in each of IN_BUF and OUT_BUF. -/
  bufSize : Nat
  /-- P_RL_CLASS_MAX: largest accepted magnitude class of the run-length code. -/
  rlClassMax : Nat
  /-- P_LIT_CAP: largest length the matcher gives a literal run. -/
  litCap : Nat
  /-- P_LIT_STOP: savings that stop literal extension. -/
  litStop : Nat
  /-- P_SCAN_WINDOW: how many earlier positions the copy search examines. -/
  scanWindow : Nat
  deriving DecidableEq, Repr

/-- The constraints of 00_scope.md R10 on the parameters. -/
abbrev Params.legal (P : Params) : Prop :=
  8192 ≤ P.bufSize ∧ P.bufSize ≤ 65536 ∧ 11 ≤ P.rlClassMax ∧
    1 ≤ P.litCap ∧ P.litCap ≤ 1024 ∧ 1 ≤ P.litStop ∧ 1 ≤ P.scanWindow

/-- The values this hardware takes (00_scope.md R10): those of the state after reset (log 10). -/
def Config.hw : Params :=
  { bufSize := 65536, rlClassMax := 15, litCap := 1024, litStop := 2, scanWindow := 65536 }

/-- `L_MAX` (00_scope.md R8): largest Codec B command length. -/
def Config.maxLen : Nat := 1024

/-- `L_SHORT` (00_scope.md R8): largest length of the 1-byte header form. -/
def Config.shortLen : Nat := 32

/-- `REL_MAX` (00_scope.md R8): largest distance of the 1-byte relative copy offset. -/
def Config.relMax : Nat := 127

/-- `ABS_MAX` (00_scope.md R9): largest absolute copy offset. -/
def Config.absMax : Nat := 0x7FFF

/-- `SENTINEL` (00_scope.md R8): Codec B end-of-stream byte. -/
def Config.sentinel : Byte := 0xFF

/-- `A_PLANE_PAIRS` (00_scope.md R9): 2-bit pairs in one Codec A plane of width `w`. -/
def Config.planePairs (w : Nat) : Nat := 32 * (w * w)

/-- `A_DATA_LEN` (00_scope.md R9): Codec A decompressed length of width `w`. -/
def Config.dataLen (w : Nat) : Nat := 16 * (w * w)

/-- Free value: the unspecified byte at index `addr` in draw number `draw` (93_implementation_defined.md U1 to U3,
log 1 and log 11). It has no body, so no proof can see a value of it. -/
opaque Config.freeByte (draw addr : Nat) : Byte

/-- Free value: whether the host moves before the engine at choice number `turn`, while the engine is BUSY and the
host has an access waiting (40_operations.md R135, log 4). -/
opaque Config.hostFirst (turn : Nat) : Bool

/-- Free value: which 2^18-byte window of the host bus the block occupies (00_scope.md R10 `P_BASE`, log 9). -/
opaque Config.baseIndex : Nat

/-- `P_BASE`: any address aligned to 2^18 (00_scope.md R10, log 9). -/
def Config.base : Nat := Config.baseIndex * 2 ^ 18

end Sys2Proof
end

