-- ==== Sys2Proof/Syntax.lean ====
section
/-! DEFINITION. The syntax: one constructor of `Instr` for each of the 39 rows of spec/opcode_table.json, and the code
spaces in which the engine fetches them. -/

namespace Sys2Proof

/-- A row of the opcode table with its operands. Lengths, distances and positions are the decoded values (L, not L − 1),
so a term can be ill-formed, and `Instr.wf` says when it is not. -/
inductive Instr where
  /-- OP = 1 (40_operations.md R140). -/
  | aCompress
  /-- OP = 2 (40_operations.md R145). -/
  | aCompressAuto
  /-- OP = 3 (40_operations.md R150). -/
  | aDecompress
  /-- OP = 4 (40_operations.md R155). -/
  | bCompress
  /-- OP = 5 (40_operations.md R160). -/
  | bDecompress
  /-- OP = 0, reserved (30_encoding.md R107). -/
  | opReserved0
  /-- OP = 6, reserved (30_encoding.md R107). -/
  | opReserved6
  /-- OP = 7, reserved (30_encoding.md R107). -/
  | opReserved7
  /-- LIT, short header (44_codec_b_commands.md R293). -/
  | lit (len : Nat)
  /-- ITER, short header (R294). -/
  | iter (len : Nat)
  /-- ALT, short header (R295). -/
  | alt (len : Nat)
  /-- ZERO, short header (R296). -/
  | zero (len : Nat)
  /-- REPEAT, short header (R297). -/
  | rep (len : Nat)
  /-- FLIP, short header (R298). -/
  | flip (len : Nat)
  /-- REVERSE, short header (R299). -/
  | reverse (len : Nat)
  /-- LIT, long header (R293). -/
  | litLong (len : Nat)
  /-- ITER, long header (R294). -/
  | iterLong (len : Nat)
  /-- ALT, long header (R295). -/
  | altLong (len : Nat)
  /-- ZERO, long header (R296). -/
  | zeroLong (len : Nat)
  /-- REPEAT, long header (R297). -/
  | repLong (len : Nat)
  /-- FLIP, long header (R298). -/
  | flipLong (len : Nat)
  /-- REVERSE, long header (R299). -/
  | reverseLong (len : Nat)
  /-- Header byte 0xFC (R272). -/
  | longReservedFC
  /-- Header byte 0xFD (R272). -/
  | longReservedFD
  /-- Header byte 0xFE (R272). -/
  | longReservedFE
  /-- END, the sentinel 0xFF (R304). -/
  | stop
  /-- Relative copy offset, distance `d` (R273). -/
  | offRel (d : Nat)
  /-- Absolute copy offset, source position `src` (R273). -/
  | offAbs (src : Nat)
  /-- Codec A header (30_encoding.md R92). -/
  | aHdr (w h : Nat)
  /-- Codec A order bit (30_encoding.md R92). -/
  | aOrd (order : Bool)
  /-- Plane start bit 0 (30_encoding.md R94). -/
  | aS0
  /-- Plane start bit 1 (30_encoding.md R94). -/
  | aS1
  /-- Data group: one nonzero pair (30_encoding.md R95). -/
  | aP (pair : Pair)
  /-- Data terminator `00` (30_encoding.md R95). -/
  | aT
  /-- RLE packet of magnitude class `w` with offset `v` (30_encoding.md R96). -/
  | aRun (w v : Nat)
  /-- Mode field `0` (30_encoding.md R93). -/
  | aM0
  /-- Mode field `10` (30_encoding.md R93). -/
  | aM1
  /-- Mode field `11` (30_encoding.md R93). -/
  | aM2
  /-- Padding of `n` bits after the second plane (30_encoding.md R98). -/
  | aPad (n : Nat)
  deriving DecidableEq, Repr

/-- Where the engine fetches: the three code spaces of 30_encoding.md, with the Codec A stream's fields apart
(R90, R91, R94, R99, R104). The position in the stream, never the bits alone, says which one applies. -/
inductive Space where
  /-- The operation code L_OP (R90). -/
  | op
  /-- A Codec B header (R99, R105). -/
  | bHeader
  /-- A Codec B copy offset (R104). -/
  | bOffset
  /-- The Codec A header (R91). -/
  | aHdr
  /-- The order bit (R91). -/
  | aOrd
  /-- A plane's start bit (R94). -/
  | aStart
  /-- A group of a data packet (R95). -/
  | aData
  /-- An RLE packet (R96). -/
  | aRle
  /-- The mode field (R93). -/
  | aMode
  /-- The padding (R98). -/
  | aPad
  deriving DecidableEq, Repr

/-- The three copy kinds (30_encoding.md R100). -/
inductive CopyKind where
  | rep
  | flip
  | reverse
  deriving DecidableEq, Repr

end Sys2Proof
end

