-- ==== Sys2Proof/WellFormed.lean ====
section
/-! DEFINITION. When an instruction is one the encodings of 30_encoding.md can express. -/

namespace Sys2Proof

/-- The code space a row belongs to. -/
def Instr.space : Instr → Space
  | .aCompress | .aCompressAuto | .aDecompress | .bCompress | .bDecompress => .op
  | .opReserved0 | .opReserved6 | .opReserved7 => .op
  | .lit _ | .iter _ | .alt _ | .zero _ | .rep _ | .flip _ | .reverse _ => .bHeader
  | .litLong _ | .iterLong _ | .altLong _ | .zeroLong _ => .bHeader
  | .repLong _ | .flipLong _ | .reverseLong _ => .bHeader
  | .longReservedFC | .longReservedFD | .longReservedFE | .stop => .bHeader
  | .offRel _ | .offAbs _ => .bOffset
  | .aHdr _ _ => .aHdr
  | .aOrd _ => .aOrd
  | .aS0 | .aS1 => .aStart
  | .aP _ | .aT => .aData
  | .aRun _ _ => .aRle
  | .aM0 | .aM1 | .aM2 => .aMode
  | .aPad _ => .aPad

/-- 30_encoding.md R101: `1 ≤ L ≤ 32` in a short header. -/
abbrev shortLenOk (len : Nat) : Prop := 1 ≤ len ∧ len ≤ Config.shortLen

/-- 30_encoding.md R102: `1 ≤ L ≤ 1024` in a long header. -/
abbrev longLenOk (len : Nat) : Prop := 1 ≤ len ∧ len ≤ Config.maxLen

/-- Well-formedness: every operand is a value its field can hold (30_encoding.md R92, R95, R96, R101, R102, R104).
`P` gives the largest magnitude class. -/
abbrev Instr.wf (P : Params) (i : Instr) : Prop :=
  match i with
  | .lit n | .iter n | .alt n | .zero n | .rep n | .flip n | .reverse n => shortLenOk n
  | .litLong n | .iterLong n | .altLong n | .zeroLong n => longLenOk n
  | .repLong n | .flipLong n | .reverseLong n => longLenOk n
  | .offRel d => d ≤ Config.relMax
  | .offAbs src => src ≤ Config.absMax
  | .aHdr w h => w ≤ 15 ∧ h ≤ 15
  | .aP p => p ≠ 0
  | .aRun w v => w ≤ P.rlClassMax ∧ v < 2 ^ (w + 1)
  | .aPad n => n ≤ 7
  | .aCompress | .aCompressAuto | .aDecompress | .bCompress | .bDecompress => True
  | .opReserved0 | .opReserved6 | .opReserved7 => True
  | .longReservedFC | .longReservedFD | .longReservedFE | .stop => True
  | .aOrd _ | .aS0 | .aS1 | .aT | .aM0 | .aM1 | .aM2 => True

end Sys2Proof
end

