-- ==== Sys2Proof/Decode.lean ====
section
/-! DEFINITION. The decoder of the three code spaces (30_encoding.md R90 to R106), total on any bits, and after it the
encoder. Both work on MSB-first bit sequences; a Codec B byte is its eight bits, bit 7 first. -/

namespace Sys2Proof

/-- The operation code's row (30_encoding.md R90). Only bits 2:0 count. -/
def decodeOp (w : Nat) : Instr :=
  match w % 8 with
  | 1 => .aCompress
  | 2 => .aCompressAuto
  | 3 => .aDecompress
  | 4 => .bCompress
  | 5 => .bDecompress
  | 6 => .opReserved6
  | 7 => .opReserved7
  | _ => .opReserved0

/-- The short header of kind 0 to 6 and length `len` (30_encoding.md R100, R101). -/
def shortRow (kind len : Nat) : Instr :=
  match kind with
  | 0 => .lit len
  | 1 => .iter len
  | 2 => .alt len
  | 3 => .zero len
  | 4 => .rep len
  | 5 => .flip len
  | _ => .reverse len

/-- The long header of kind 0 to 6 and length `len` (30_encoding.md R100, R102). -/
def longRow (kind len : Nat) : Instr :=
  match kind with
  | 0 => .litLong len
  | 1 => .iterLong len
  | 2 => .altLong len
  | 3 => .zeroLong len
  | 4 => .repLong len
  | 5 => .flipLong len
  | _ => .reverseLong len

/-- The header bytes 0xFC to 0xFF by their low two bits (30_encoding.md R105). -/
def escapeRow (low : Nat) : Instr :=
  match low with
  | 0 => .longReservedFC
  | 1 => .longReservedFD
  | 2 => .longReservedFE
  | _ => .stop

/-- `DecodeHeader` (44_codec_b_commands.md R272), by the fields of the header byte: bits 7:5 are the kind of a short
header, or 7, and then bits 4:2 are the kind of a long header, or 7 again. The second byte is read for kinds 0 to 6
only. -/
def decodeHeader (bits : List Bool) : Except Err (Instr × List Bool) := do
  let (kind, bits) ← readBits 3 bits
  if kind < 7 then
    let (low, bits) ← readBits 5 bits
    return (shortRow kind (low + 1), bits)
  else
    let (long, bits) ← readBits 3 bits
    let (low, bits) ← readBits 2 bits
    if long = 7 then
      return (escapeRow low, bits)
    else
      let (second, bits) ← readBits 8 bits
      return (longRow long (low * 256 + second + 1), bits)

/-- The copy offset forms (30_encoding.md R104, 44_codec_b_commands.md R273): bit 7 of the first byte selects. -/
def decodeOffset (bits : List Bool) : Except Err (Instr × List Bool) := do
  let (form, bits) ← readBits 1 bits
  let (low, bits) ← readBits 7 bits
  if form = 1 then
    return (.offRel low, bits)
  else
    let (second, bits) ← readBits 8 bits
    return (.offAbs (low * 256 + second), bits)

/-- The unary prefix of an RLE packet (43_codec_a_rle.md R222): `left` more one bits are accepted, and `w` have been
read. RUN_LENGTH_OVERFLOW at the first one bit too many, before any further bit is read. -/
def readUnary : Nat → Nat → List Bool → Except Err (Nat × List Bool)
  | _, _, [] => .error .truncatedStream
  | _, w, false :: bits => .ok (w, bits)
  | 0, _, true :: _ => .error .runLengthOverflow
  | left + 1, w, true :: bits => readUnary left (w + 1) bits

/-- An RLE packet (30_encoding.md R96, 43_codec_a_rle.md R222). -/
def decodeRun (P : Params) (bits : List Bool) : Except Err (Instr × List Bool) := do
  let (w, bits) ← readUnary P.rlClassMax 0 bits
  let (v, bits) ← readBits (w + 1) bits
  return (.aRun w v, bits)

/-- A group of a data packet (30_encoding.md R95). -/
def decodeData (bits : List Bool) : Except Err (Instr × List Bool) := do
  let (v, bits) ← readBits 2 bits
  return (if v = 0 then .aT else .aP (BitVec.ofNat 2 v), bits)

/-- `ReadMode` (43_codec_a_rle.md R240, 30_encoding.md R93). -/
def decodeMode (bits : List Bool) : Except Err (Instr × List Bool) := do
  let (first, bits) ← readBits 1 bits
  if first = 0 then
    return (.aM0, bits)
  else
    let (second, bits) ← readBits 1 bits
    return (if second = 0 then .aM1 else .aM2, bits)

/-- The Codec A header's two nibbles (30_encoding.md R92). -/
def decodeAHdr (bits : List Bool) : Except Err (Instr × List Bool) := do
  let (w, bits) ← readBits 4 bits
  let (h, bits) ← readBits 4 bits
  return (.aHdr w h, bits)

/-- The decoder: the row that the bits spell in a code space, and the bits after it, or the error that 60_exceptions.md
names. Padding takes every bit it is given without looking at it (30_encoding.md R98). -/
def decode (P : Params) : Space → List Bool → Except Err (Instr × List Bool)
  | .op, bits => do
    let (w, bits) ← readBits 3 bits
    return (decodeOp w, bits)
  | .bHeader, bits => decodeHeader bits
  | .bOffset, bits => decodeOffset bits
  | .aHdr, bits => decodeAHdr bits
  | .aOrd, bits => do
    let (o, bits) ← readBits 1 bits
    return (.aOrd (o == 1), bits)
  | .aStart, bits => do
    let (t, bits) ← readBits 1 bits
    return (if t = 0 then .aS0 else .aS1, bits)
  | .aData, bits => decodeData bits
  | .aRle, bits => decodeRun P bits
  | .aMode, bits => decodeMode bits
  | .aPad, bits => .ok (.aPad bits.length, [])

/-- `EncodeHeader`'s one-byte form (30_encoding.md R101). -/
def encodeShort (kind len : Nat) : List Bool :=
  bitsOfNat 3 kind ++ bitsOfNat 5 (len - 1)

/-- `EncodeHeader`'s two-byte form (30_encoding.md R102, 90_conflicts.md C1). -/
def encodeLong (kind len : Nat) : List Bool :=
  bitsOfNat 3 7 ++ bitsOfNat 3 kind ++ bitsOfNat 2 ((len - 1) / 256) ++ bitsOfNat 8 ((len - 1) % 256)

/-- The encoder: the bits of a row, in emission order (30_encoding.md R90 to R105). -/
def encode : Instr → List Bool
  | .aCompress => bitsOfNat 3 1
  | .aCompressAuto => bitsOfNat 3 2
  | .aDecompress => bitsOfNat 3 3
  | .bCompress => bitsOfNat 3 4
  | .bDecompress => bitsOfNat 3 5
  | .opReserved0 => bitsOfNat 3 0
  | .opReserved6 => bitsOfNat 3 6
  | .opReserved7 => bitsOfNat 3 7
  | .lit n => encodeShort 0 n
  | .iter n => encodeShort 1 n
  | .alt n => encodeShort 2 n
  | .zero n => encodeShort 3 n
  | .rep n => encodeShort 4 n
  | .flip n => encodeShort 5 n
  | .reverse n => encodeShort 6 n
  | .litLong n => encodeLong 0 n
  | .iterLong n => encodeLong 1 n
  | .altLong n => encodeLong 2 n
  | .zeroLong n => encodeLong 3 n
  | .repLong n => encodeLong 4 n
  | .flipLong n => encodeLong 5 n
  | .reverseLong n => encodeLong 6 n
  | .longReservedFC => bitsOfNat 8 0xFC
  | .longReservedFD => bitsOfNat 8 0xFD
  | .longReservedFE => bitsOfNat 8 0xFE
  | .stop => bitsOfNat 8 0xFF
  | .offRel d => true :: bitsOfNat 7 d
  | .offAbs src => false :: (bitsOfNat 7 (src / 256) ++ bitsOfNat 8 (src % 256))
  | .aHdr w h => bitsOfNat 4 w ++ bitsOfNat 4 h
  | .aOrd order => [order]
  | .aS0 => [false]
  | .aS1 => [true]
  | .aP p => bitsOfNat 2 p.toNat
  | .aT => [false, false]
  | .aRun w v => List.replicate w true ++ false :: bitsOfNat (w + 1) v
  | .aM0 => [false]
  | .aM1 => [true, false]
  | .aM2 => [true, true]
  | .aPad n => List.replicate n false

/-- How many bits a row takes in its stream, its payload bytes not counted (30_encoding.md R111). -/
def rowBits : Instr → Nat
  | .aCompress | .aCompressAuto | .aDecompress | .bCompress | .bDecompress => 3
  | .opReserved0 | .opReserved6 | .opReserved7 => 3
  | .lit _ | .iter _ | .alt _ | .zero _ | .rep _ | .flip _ | .reverse _ => 8
  | .litLong _ | .iterLong _ | .altLong _ | .zeroLong _ => 16
  | .repLong _ | .flipLong _ | .reverseLong _ => 16
  | .longReservedFC | .longReservedFD | .longReservedFE | .stop => 8
  | .offRel _ => 8
  | .offAbs _ => 16
  | .aHdr _ _ => 8
  | .aOrd _ | .aS0 | .aS1 | .aM0 => 1
  | .aP _ | .aT | .aM1 | .aM2 => 2
  | .aRun w _ => 2 * w + 2
  | .aPad n => n

/-- The bytes of a Codec B header or offset. -/
def encodeBytes (i : Instr) : List Byte :=
  pack (encode i)

/-- The bytes of an instruction numbered as spec/opcode_table.json numbers its bits: bit 0 is the least significant bit
of the first byte, and the second byte is bits 15..8. -/
def tableBytes (w count : Nat) : List Byte :=
  (List.range count).map fun k => BitVec.ofNat 8 (w / 256 ^ k)

/-- Which code space a bare table word is read in (log 6). The table's spaces overlap, and a word carries no position in
a stream: the words 1 to 7 are operation codes, every other word is a Codec B header. -/
def tableIsOp (nbits w : Nat) : Bool :=
  nbits ≤ 8 && 1 ≤ w % 2 ^ nbits && w % 2 ^ nbits ≤ 7

/-- The instruction the decoder reads from a table word of `nbits` bits, the bits above being 0 (log 6). -/
def decodeTableWord (nbits w : Nat) : Option Instr :=
  if tableIsOp nbits w then
    some (decodeOp (w % 2 ^ nbits))
  else
    match decode Config.hw .bHeader (bitsOfBytes (tableBytes (w % 2 ^ nbits) 2)) with
    | .ok (i, _) => some i
    | .error _ => none

end Sys2Proof
end

