-- ==== Sys2Proof/Machine/State.lean ====
section
/-! DEFINITION. The machine's state as plain data: every register, buffer, latch and working register that 10_state.md
gives the block, the reset input, and the model's own input queue and counters (INVENTORY.md, State). -/

namespace Sys2Proof.Machine

/-- A buffer: (index, byte) pairs with rising indexes. An unlisted index holds no value, and reading it gives the free
byte of the buffer's draw (log 1). -/
abbrev Memory := List Host.Cell

/-- A plane matrix, row 0 first, column 0 first in each row (42_codec_a_planes.md R190). -/
abbrev Plane := List (List Bool)

/-- The read cursor `rc`: a byte index and a bit index 7..0 (41_bit_cursor.md R170). -/
structure Cursor where
  byte : Nat
  bit : Nat
  deriving DecidableEq, Repr

/-- What a Codec B command does, with what it carries (44_codec_b_commands.md R270). The bytes of a LIT are those of the
input at the command's position (45_codec_b_matcher.md R345). -/
inductive Body where
  | lit
  | iter (b : Byte)
  | alt (a b : Byte)
  | zero
  | copy (kind : CopyKind) (src : Nat)
  deriving DecidableEq, Repr

/-- A Codec B command `{kind, L, pos, payload}` (44_codec_b_commands.md R270). -/
structure Cmd where
  body : Body
  len : Nat
  pos : Nat
  deriving DecidableEq, Repr

/-- The plane decoder's packet type (43_codec_a_rle.md R236). -/
inductive Packet where
  | rle
  | data
  deriving DecidableEq, Repr

/-- The best result so far of A_COMPRESS_AUTO with its (swap, mode) (40_operations.md R145). -/
structure AutoBest where
  bytes : List Byte
  swap : Bool
  mode : Nat
  deriving DecidableEq, Repr

/-- The engine's working registers (10_state.md R37 to R39). The host observes none of them (R42), and every operation
starts them afresh (R43). -/
structure Work where
  /-- `rc` (R37). -/
  rc : Cursor
  /-- `wb` (R37). -/
  wb : List Bool
  /-- PL[0] (R38). -/
  pl0 : Plane
  /-- PL[1] (R38). -/
  pl1 : Plane
  /-- The plane encoder's "RLE mode" flag (R38). -/
  rle : Bool
  /-- The plane encoder's zero-run count (R38). -/
  count : Nat
  /-- The plane decoder's packet type (R38). -/
  packet : Packet
  /-- The pairs of the plane being decoded; their number is the pair count (R38). -/
  seq : List Pair
  /-- The first decoded plane (43_codec_a_rle.md R250). -/
  firstSeq : List Pair
  /-- Whether the plane being decoded is the second one (43_codec_a_rle.md R250). -/
  second : Bool
  /-- The width a decoder has read (43_codec_a_rle.md R250). -/
  width : Nat
  /-- The order bit a decoder has read (43_codec_a_rle.md R250). -/
  order : Bool
  /-- The mode a decoder has read (43_codec_a_rle.md R250). -/
  mode : Nat
  /-- The row-carry bit of the delta transform (R38). -/
  rowCarry : Bool
  /-- The best result so far of A_COMPRESS_AUTO (R38). -/
  autoBest : Option AutoBest
  /-- The command list (R39). -/
  cmds : List Cmd
  /-- The matcher's input position `i` (R39). -/
  pos : Nat
  /-- The best candidate so far (R39). -/
  best : Option Cmd
  /-- The optimizer's output list (R39). -/
  opt : List Cmd
  /-- The read index `rp` (R39). -/
  rp : Nat
  /-- The output built so far; its length is the output length (R39). -/
  out : List Byte
  /-- The kind of the copy whose offset is read next (44_codec_b_commands.md R290, PAYLOAD). -/
  copy : CopyKind
  /-- The length of the copy whose offset is read next (44_codec_b_commands.md R290, PAYLOAD). -/
  len : Nat
  deriving DecidableEq, Repr

/-- The working registers at the start of an operation: cursors at the start of their input, sequences empty
(41_bit_cursor.md R170, R174, R177, 44_codec_b_commands.md R291). The rest is unspecified there (10_state.md R43) and
written before it is read (log 2). -/
def Work.init : Work :=
  { rc := { byte := 0, bit := 7 }, wb := [], pl0 := [], pl1 := [], rle := false, count := 0,
    packet := .rle, seq := [], firstSeq := [], second := false, width := 0, order := false,
    mode := 0, rowCarry := false, autoBest := none, cmds := [], pos := 0, best := none,
    opt := [], rp := 0, out := [], copy := .rep, len := 0 }

/-- The engine's control state. IDLE is STATUS.BUSY = 0 (40_operations.md R130); the others say what the engine fetches
next (log 7). -/
inductive Phase where
  /-- IDLE (10_state.md R20). -/
  | idle
  /-- START has been accepted; the operation code is run next (40_operations.md R133). -/
  | dispatch
  /-- The Codec A header is next (30_encoding.md R91). -/
  | aHdr
  /-- The order bit is next (30_encoding.md R91). -/
  | aOrd
  /-- A plane's start bit is next (30_encoding.md R94). -/
  | aStart
  /-- A packet or a group of one is next, by the packet type (43_codec_a_rle.md R236). -/
  | aPacket
  /-- The mode field is next (30_encoding.md R91). -/
  | aMode
  /-- The padding is next (30_encoding.md R91). -/
  | aPad
  /-- SCAN: a Codec B header is next (44_codec_b_commands.md R290). -/
  | bScan
  /-- PAYLOAD of a copy: its offset is next (44_codec_b_commands.md R290). -/
  | bPayload
  deriving DecidableEq, Repr

/-- A host access: an offset in the window of 20_memory.md R60, a width in bytes, and for a write the data. -/
inductive HostAccess where
  | read (off : BitVec 18) (size : Nat)
  | write (off : BitVec 18) (size : Nat) (data : Word)
  deriving DecidableEq, Repr

/-- What reaches the block from outside: a host access, or a new level of the reset input
(70_reset_and_hazards.md R400). -/
inductive HostEvent where
  | access (a : HostAccess)
  | reset (level : Bool)
  deriving DecidableEq, Repr

/-- The whole machine. -/
structure State where
  /-- The model's own: the parameters the block is built with (00_scope.md R10, log 10). They are an argument of the whole
  machine, since everything a step does takes them from here, and no step changes them. -/
  cfg : Params
  /-- CTRL.IRQ_EN (10_state.md R22). -/
  irqEn : Bool
  /-- STATUS.DONE (R23). -/
  done : Bool
  /-- STATUS.ERR (R23). -/
  err : Bool
  /-- STATUS.PROTO (R23). -/
  proto : Bool
  /-- STATUS.ERRCODE (R23). -/
  errCode : BitVec 4
  /-- STATUS.ERRCLASS (R23). -/
  errClass : BitVec 2
  /-- OP.OP (R24). -/
  op : BitVec 3
  /-- PARAM: WIDTH 3:0, SWAP 4, MODE 6:5 (R25). -/
  param : BitVec 7
  /-- ALIGN.ALIGN (R26). -/
  align : BitVec 16
  /-- IN_LEN.IN_LEN (R27). -/
  inLen : BitVec 17
  /-- OUT_LEN.OUT_LEN (R28). -/
  outLen : BitVec 17
  /-- INFO: WIDTH 3:0, ORDER 4, MODE 6:5 (R29). -/
  info : BitVec 7
  /-- IN_BUF (R31). -/
  inBuf : Memory
  /-- OUT_BUF (R32). -/
  outBuf : Memory
  /-- The engine's control state; STATUS.BUSY is read from it (R20, R23). -/
  phase : Phase
  /-- L_OP (R36). -/
  lOp : BitVec 3
  /-- L_PARAM (R36). -/
  lParam : BitVec 7
  /-- L_ALIGN (R36). -/
  lAlign : BitVec 16
  /-- L_IN_LEN (R36). -/
  lInLen : BitVec 17
  /-- The engine's working registers (R37 to R39). -/
  work : Work
  /-- The level of the reset input (70_reset_and_hazards.md R400, log 8). -/
  rst : Bool
  /-- The model's own: what the outside world will do, in order (log 3). -/
  events : List HostEvent
  /-- The model's own: the value of the last host read (log 3). -/
  rdata : Word
  /-- The model's own: counter of the choices between host and engine (log 3, log 4). -/
  turn : Nat
  /-- The model's own: the next unused draw of unspecified bytes (log 3, log 1). -/
  draws : Nat
  /-- The model's own: the draw of IN_BUF's unlisted bytes (log 1). -/
  inDraw : Nat
  /-- The model's own: the draw of OUT_BUF's unlisted bytes (log 1). -/
  outDraw : Nat
  deriving DecidableEq, Repr

/-- No step of this machine ends in a fault: every error is a completion (60_exceptions.md R370), and an access the
protocol forbids sets PROTO (60_exceptions.md R376). So the type has no constructor. -/
inductive Fault where
  deriving DecidableEq, Repr

/-- Why a step has no meaning. -/
inductive Refusal where
  /-- Raised by an arm of `exec` whose row has no meaning yet. Safe: nothing follows from it. No arm is left so. -/
  | notModelled (mnemonic : String)
  /-- Raised by the step that serves a host access while `rst` is asserted: 70_reset_and_hazards.md R400 says such
  accesses "are not defined" and 93_implementation_defined.md U4 says to refuse them. Safe: the run stops (log 8). -/
  | hostAccessDuringReset
  deriving DecidableEq, Repr

/-- What a step or a meaning answers. -/
abbrev Answer := Host.Outcome State Fault Refusal

/-- The machine right after reset: the parameter values of 00_scope.md R10, the register values of 10_state.md R43, and for
what R43 leaves unspecified the values that log 1, log 2 and log 3 name. -/
def State.reset : State :=
  { cfg := Config.hw,
    irqEn := false, done := false, err := false, proto := false, errCode := 0, errClass := 0,
    op := 0, param := 0, align := 1, inLen := 0, outLen := 0, info := 0,
    inBuf := [], outBuf := [], phase := .idle,
    lOp := 0, lParam := 0, lAlign := 1, lInLen := 0, work := Work.init,
    rst := false, events := [], rdata := 0, turn := 0, draws := 2, inDraw := 0, outDraw := 1 }

end Sys2Proof.Machine
end

