-- ==== Sys2Proof/Machine/Flags.lean ====
section
/-! DEFINITION. The STATUS flags and the words in which registers hold fields (10_state.md R22, R23, R25, R29, R35). -/

namespace Sys2Proof.Machine

/-- STATUS.BUSY: the engine is not IDLE (40_operations.md R130). -/
def State.busy (s : State) : Bool :=
  s.phase != .idle

/-- STATUS as the host reads it (10_state.md R23): BUSY, DONE, ERR, PROTO in bits 0 to 3, ERRCODE in 11:8, ERRCLASS in
13:12, every other bit 0. -/
def State.statusWord (s : State) : Word :=
  0#18 ++ s.errClass ++ s.errCode ++ 0#4 ++ BitVec.ofBool s.proto ++ BitVec.ofBool s.err ++
    BitVec.ofBool s.done ++ BitVec.ofBool s.busy

/-- CTRL as the host reads it (10_state.md R22): IRQ_EN in bit 2; START and CLEAR read 0. -/
def State.ctrlWord (s : State) : Word :=
  0#29 ++ BitVec.ofBool s.irqEn ++ 0#2

/-- The output `irq` (10_state.md R41, 60_exceptions.md R380). -/
def State.irq (s : State) : Bool :=
  s.done && s.irqEn

/-- A host access the protocol forbids sets STATUS.PROTO and nothing else (10_state.md R30, 60_exceptions.md R376). -/
def State.setProto (s : State) : State :=
  { s with proto := true }

/-- The flags of a success (40_operations.md R134). -/
def State.clearErr (s : State) : State :=
  { s with err := false, errCode := 0, errClass := 0 }

/-- The flags of an error (40_operations.md R134, 60_exceptions.md R371, R372). -/
def State.setErr (s : State) (e : Err) : State :=
  { s with err := true, errCode := e.code, errClass := e.cls }

/-- PARAM.WIDTH (10_state.md R25). -/
def paramWidth (p : BitVec 7) : Nat :=
  p.toNat % 16

/-- PARAM.SWAP (10_state.md R25). -/
def paramSwap (p : BitVec 7) : Bool :=
  p.getLsbD 4

/-- PARAM.MODE (10_state.md R25). -/
def paramMode (p : BitVec 7) : Nat :=
  p.toNat / 32

/-- INFO from its fields: WIDTH 3:0, ORDER 4, MODE 6:5 (10_state.md R29). -/
def infoOf (width : Nat) (order : Bool) (mode : Nat) : BitVec 7 :=
  BitVec.ofNat 7 (width + 16 * order.toNat + 32 * mode)

end Sys2Proof.Machine
end

