-- ==== Sys2Proof/Machine/Ops.lean ====
section
/-! DEFINITION. The shared operations: buffers, completion and error entry (40_operations.md R134, 60_exceptions.md
R374), START and CLEAR (40_operations.md R131, R132), reset (70_reset_and_hazards.md R400), the engine's reads of IN_BUF
and its read cursor (41_bit_cursor.md R170). -/

namespace Sys2Proof.Machine

/-! ### Buffers -/

/-- The canonical form of a buffer: strictly rising indexes. An unlisted index holds no value, so no entry can equal
one. -/
abbrev Memory.wf (m : Memory) : Prop :=
  m.Pairwise fun x y => x.1 < y.1

/-- The value listed at an index. -/
def Memory.get : Memory → Nat → Option Byte
  | [], _ => none
  | (b, v) :: m, a => if b = a then some v else Memory.get m a

/-- Store one byte, keeping the canonical form. -/
def Memory.set : Memory → Nat → Byte → Memory
  | [], a, v => [(a, v)]
  | (b, w) :: m, a, v =>
    if a < b then (a, v) :: (b, w) :: m
    else if a = b then (a, v) :: m
    else (b, w) :: Memory.set m a v

/-- A byte sequence at consecutive indexes from `base`. -/
def Memory.ofBytes : Nat → List Byte → Memory
  | _, [] => []
  | base, b :: bs => (base, b) :: Memory.ofBytes (base + 1) bs

/-- Store a byte sequence at consecutive indexes from `base`, keeping every other entry. -/
def Memory.setBlock (m : Memory) (base : Nat) (bs : List Byte) : Memory :=
  m.filter (fun c => c.1 < base) ++
    (Memory.ofBytes base bs ++ m.filter (fun c => base + bs.length ≤ c.1))

/-- IN_BUF[a] (10_state.md R31): the stored byte, or the free byte of IN_BUF's draw where nothing has been written since
reset (93_implementation_defined.md U2, log 1). -/
def State.readIn (s : State) (a : Nat) : Byte :=
  (Memory.get s.inBuf a).getD (Config.freeByte s.inDraw a)

/-- OUT_BUF[a] while IDLE (10_state.md R32): the result byte, or the free byte of OUT_BUF's draw
(93_implementation_defined.md U3, log 1). -/
def State.readOut (s : State) (a : Nat) : Byte :=
  (Memory.get s.outBuf a).getD (Config.freeByte s.outDraw a)

/-- A host write of IN_BUF[a] (10_state.md R31). -/
def State.writeIn (s : State) (a : Nat) (b : Byte) : State :=
  { s with inBuf := Memory.set s.inBuf a b }

/-! ### Completion and error entry -/

/-- All of OUT_BUF takes new unspecified values (40_operations.md R134, 93_implementation_defined.md U3, log 1). -/
def State.scrambleOut (s : State) : State :=
  { s with outBuf := [], outDraw := s.draws, draws := s.draws + 1 }

/-- BUSY falls and DONE rises (40_operations.md R134, last line). -/
def State.finish (s : State) : State :=
  { s with phase := .idle, done := true }

/-- Error entry: `raise Err(code)` ends the running operation (40_operations.md R134, 60_exceptions.md R370, R374). Nothing
is saved, no mode changes and control goes nowhere: the code and its class go to STATUS, OUT_LEN and INFO become 0,
OUT_BUF becomes unspecified, BUSY falls and DONE rises. The latches and working registers, of which
93_implementation_defined.md U22 says any value, stay as they stood: DESIGN CHOICE, unsafe (log 15). -/
def State.raise (s : State) (e : Err) : State :=
  ({ s.scrambleOut.setErr e with outLen := 0, info := 0 }).finish

/-- Completion with a result (40_operations.md R134). A result longer than P_BUF_SIZE is the error OUTPUT_OVERFLOW. The
latches and working registers stay as they stood: DESIGN CHOICE, unsafe (log 15). -/
def State.complete (s : State) (bytes : List Byte) (info : BitVec 7) : State :=
  if bytes.length > s.cfg.bufSize then s.raise .outputOverflow
  else
    ({ s.scrambleOut.clearErr with
        outBuf := Memory.ofBytes 0 bytes, outLen := BitVec.ofNat 17 bytes.length, info := info }).finish

/-! ### START, CLEAR and reset -/

/-- An accepted START (40_operations.md R131). It also erases a reported error (60_exceptions.md R375) and re-initialises
the working registers (10_state.md R43, log 2). -/
def State.start (s : State) : State :=
  { s with
    lOp := s.op, lParam := s.param, lAlign := s.align, lInLen := s.inLen, work := Work.init,
    done := false, err := false, errCode := 0, errClass := 0,
    outLen := 0, info := 0, phase := .dispatch }

/-- An accepted CLEAR (40_operations.md R132). There is no return from an error: this is how the host erases one
(60_exceptions.md R375). -/
def State.clear (s : State) : State :=
  { s with done := false, err := false, errCode := 0, errClass := 0, proto := false }

/-- `rst` is asserted (70_reset_and_hazards.md R400, R401): every register takes its reset value, a running operation is
aborted, both buffers take new unspecified values. The latches and working registers take the values that
log 2 names. What the outside world will still do stays, and so do the model's own bookkeeping of it (log 8) and the
parameters (log 10). -/
def State.assertReset (s : State) : State :=
  { State.reset with
    cfg := s.cfg, rst := true, events := s.events, rdata := s.rdata, turn := s.turn,
    inDraw := s.draws, outDraw := s.draws + 1, draws := s.draws + 2 }

/-- `rst` is released (70_reset_and_hazards.md R400). -/
def State.releaseReset (s : State) : State :=
  { s with rst := false }

/-! ### The engine's input -/

/-- IN[a .. a + n), cut at L_IN_LEN (20_memory.md R68). -/
def State.inBytes (s : State) (a : Nat) : Nat → List Byte
  | 0 => []
  | n + 1 => if a < s.lInLen.toNat then s.readIn a :: s.inBytes (a + 1) n else []

/-- `input`, with the length check that every operation makes first (40_operations.md R133). -/
def State.input (s : State) : Except Err (List Byte) :=
  if s.lInLen.toNat > s.cfg.bufSize then .error .invalidLength
  else .ok (s.inBytes 0 s.lInLen.toNat)

/-- The cursor one bit on (41_bit_cursor.md R170). -/
def Cursor.next (c : Cursor) : Cursor :=
  if c.bit = 0 then { byte := c.byte + 1, bit := 7 } else { byte := c.byte, bit := c.bit - 1 }

/-- The cursor `n` bits on. -/
def Cursor.advance (c : Cursor) : Nat → Cursor
  | 0 => c
  | n + 1 => c.next.advance n

/-- The number of bits read so far (41_bit_cursor.md R173). -/
def Cursor.position (c : Cursor) : Nat :=
  8 * c.byte + (7 - c.bit)

/-- `BitRead()` at a cursor: the bit and the cursor after it, or nothing at the end of input (41_bit_cursor.md R170,
R171). -/
def State.bitRead (s : State) (c : Cursor) : Option (Bool × Cursor) :=
  if c.byte < s.lInLen.toNat then some ((s.readIn c.byte).getLsbD c.bit, c.next) else none

/-- The next `n` bits at a cursor, fewer at the end of input. -/
def State.peekBits (s : State) : Nat → Cursor → List Bool
  | 0, _ => []
  | n + 1, c =>
    match s.bitRead c with
    | none => []
    | some (b, c') => b :: s.peekBits n c'

/-! ### The working registers -/

/-- Change the working registers. -/
def State.setWork (s : State) (w : Work) : State :=
  { s with work := w }

/-- Set the engine's control state. -/
def State.goto (s : State) (p : Phase) : State :=
  { s with phase := p }

/-- Start a decoder: fresh working registers and the first place of its stream (10_state.md R43, 41_bit_cursor.md R177). -/
def State.beginDecode (s : State) (p : Phase) : State :=
  { s with work := Work.init, phase := p }

end Sys2Proof.Machine
end

