-- ==== Sys2Proof/Machine/Operands.lean ====
section
/-! DEFINITION. Operands: payload bytes and copy sources of Codec B (44_codec_b_commands.md R273, R274, R291, R300 to R302),
parameters of the operations (40_operations.md R140, R145, R146), the value of an RLE packet (43_codec_a_rle.md R221). -/

namespace Sys2Proof.Machine

/-! ### Codec B -/

/-- The table of reversed nibbles (44_codec_b_commands.md R274). -/
def rev4Table : List (BitVec 4) :=
  [0x0, 0x8, 0x4, 0xC, 0x2, 0xA, 0x6, 0xE, 0x1, 0x9, 0x5, 0xD, 0x3, 0xB, 0x7, 0xF]

/-- `rev8(b)`: the order of the 8 bits reversed (44_codec_b_commands.md R274). -/
def rev8 (b : Byte) : Byte :=
  BitVec.ofNat 8 (natOfBits (bitsOfByte b).reverse)

/-- `GetByte()` for each of `n` payload bytes (44_codec_b_commands.md R291): the bytes and the state with `rp` past them,
or nothing where the input ends first. -/
def State.getBytes (s : State) (n : Nat) : Option (List Byte × State) :=
  let bs := s.inBytes s.work.rp n
  if bs.length < n then none
  else some (bs, s.setWork { s.work with rp := s.work.rp + n })

/-- Append a command's bytes and return to SCAN (44_codec_b_commands.md R290), or raise OUTPUT_OVERFLOW before anything is
appended (R302). -/
def State.append (s : State) (bs : List Byte) : State :=
  if s.work.out.length + bs.length > s.cfg.bufSize then s.raise .outputOverflow
  else (s.setWork { s.work with out := s.work.out ++ bs }).goto .bScan

/-- Byte-serial forward copy of `n` bytes from `src`, each through `f` (44_codec_b_commands.md R297, R298, R300). -/
def copyForward (f : Byte → Byte) : Nat → Nat → List Byte → List Byte
  | 0, _, out => out
  | n + 1, src, out => copyForward f n (src + 1) (out ++ [f (out.getD src 0)])

/-- Backward copy of `n` bytes from `src` down (44_codec_b_commands.md R299). -/
def copyBackward : Nat → Nat → List Byte → List Byte
  | 0, _, out => out
  | n + 1, src, out => copyBackward n (src - 1) (out ++ [out.getD src 0])

/-- The output after a copy command (44_codec_b_commands.md R297 to R299). -/
def copyBytes (kind : CopyKind) (len src : Nat) (out : List Byte) : List Byte :=
  match kind with
  | .rep => copyForward id len src out
  | .flip => copyForward rev8 len src out
  | .reverse => copyBackward len src out

/-- `CheckOffset` (44_codec_b_commands.md R301), with the output length for `out`. A source may be negative here (R273). -/
def offsetOk (kind : CopyKind) (src : Int) (len outLen : Nat) : Bool :=
  decide (0 ≤ src) && decide (src < outLen) &&
    (kind != .reverse || decide (0 ≤ src - ((len : Int) - 1)))

/-- The waiting copy from `src`: the offset check, the capacity check, the copy, and back to SCAN
(44_codec_b_commands.md R303 steps 4 to 6). -/
def State.runCopy (s : State) (src : Int) : State :=
  if offsetOk s.work.copy src s.work.len s.work.out.length then
    if s.work.out.length + s.work.len > s.cfg.bufSize then s.raise .outputOverflow
    else
      (s.setWork
        { s.work with out := copyBytes s.work.copy s.work.len src.toNat s.work.out }).goto .bScan
  else s.raise .invalidOffset

/-- A copy header: the decoder goes to PAYLOAD for the offset (44_codec_b_commands.md R290). -/
def State.awaitOffset (s : State) (kind : CopyKind) (len : Nat) : State :=
  (s.setWork { s.work with copy := kind, len := len }).goto .bPayload

/-! ### Codec A -/

/-- `base(w)`: the smallest run of magnitude class `w` (43_codec_a_rle.md R221). -/
def runBase (w : Nat) : Nat :=
  2 ^ (w + 1) - 1

/-- `InferWidth(n)` (40_operations.md R146): the width in 1..15 whose data has `n` bytes, else 0. -/
def inferWidth (n : Nat) : Nat :=
  ((List.range 15).find? fun k => Config.dataLen (k + 1) = n).elim 0 (· + 1)

/-- The parameter checks of A_COMPRESS, in order (40_operations.md R140). -/
def checkCompress (width mode len : Nat) : Except Err Unit :=
  if ¬ (1 ≤ width ∧ width ≤ 15) then .error .invalidWidth
  else if len ≠ Config.dataLen width then .error .invalidWidth
  else if mode = 3 then .error .invalidMode
  else .ok ()

/-- The width A_COMPRESS_AUTO takes: the one given, or the inferred one where 0 is given, checked against the input's
length (40_operations.md R145, R146). -/
def autoWidth (width len : Nat) : Except Err Nat :=
  let w := if width = 0 then inferWidth len else width
  if ¬ (1 ≤ w ∧ w ≤ 15) ∨ len ≠ Config.dataLen w then .error .invalidWidth else .ok w

end Sys2Proof.Machine
end

