-- ==== Sys2Proof/Machine/Planes.lean ====
section
/-! DEFINITION. The bitplane extractor and repacker, the pair scan order, the cross-plane XOR and the row delta
(42_codec_a_planes.md). -/

namespace Sys2Proof.Machine

/-- `M[y][x]` of a plane. -/
def Plane.at (pl : Plane) (y x : Nat) : Bool :=
  (pl.getD y []).getD x false

/-- The `h` by `h` plane whose bit at row `y`, column `x` is `f y x`. -/
def planeOf (h : Nat) (f : Nat → Nat → Bool) : Plane :=
  (List.range h).map fun y => (List.range h).map fun x => f y x

/-- The index in the data of the byte that holds row `y`, column `x` of plane `p` (42_codec_a_planes.md R190, R191): tile
`k = w·(y div 8) + (x div 8)`, byte `16k + 2·(y mod 8) + p`. -/
def pixelByte (w p y x : Nat) : Nat :=
  16 * (w * (y / 8) + x / 8) + 2 * (y % 8) + p

/-- `Extract`: plane `p` of the data (42_codec_a_planes.md R192). Bit 7 of a byte is its leftmost pixel (R191). -/
def extract (data : List Byte) (w p : Nat) : Plane :=
  planeOf (8 * w) fun y x => (data.getD (pixelByte w p y x) 0).getLsbD (7 - x % 8)

/-- Byte `n` of the repacked data (42_codec_a_planes.md R193). -/
def repackByte (pl0 pl1 : Plane) (w n : Nat) : Byte :=
  let k := n / 16
  let r := n % 16 / 2
  let pl := if n % 2 = 0 then pl0 else pl1
  byteOfBits ((List.range 8).map fun i => pl.at (8 * (k / w) + r) (8 * (k % w) + i))

/-- `Repack`: the inverse of `Extract` (42_codec_a_planes.md R193). -/
def repack (pl0 pl1 : Plane) (w : Nat) : List Byte :=
  (List.range (Config.dataLen w)).map (repackByte pl0 pl1 w)

/-- A pair from its left and right pixel (42_codec_a_planes.md R194). -/
def pairOf (left right : Bool) : Pair :=
  BitVec.ofNat 2 (2 * left.toNat + right.toNat)

/-- `pair(M, k)` (42_codec_a_planes.md R194): row `k mod H`, columns `2j` and `2j + 1` with `j = k div H`. -/
def pairAt (pl : Plane) (w k : Nat) : Pair :=
  let h := 8 * w
  pairOf (pl.at (k % h) (2 * (k / h))) (pl.at (k % h) (2 * (k / h) + 1))

/-- `pairs(M)`: the pair sequence of a plane (43_codec_a_rle.md R245). -/
def pairsOf (pl : Plane) (w : Nat) : List Pair :=
  (List.range (Config.planePairs w)).map (pairAt pl w)

/-- `Unpair(seq, w)`: the inverse of the pair scan (42_codec_a_planes.md R195). -/
def unpair (seq : List Pair) (w : Nat) : Plane :=
  planeOf (8 * w) fun y x => (seq.getD (x / 2 * (8 * w) + y) 0).getLsbD (1 - x % 2)

/-- Bitwise XOR of two planes (42_codec_a_planes.md R197). -/
def xorPlane (a b : Plane) : Plane :=
  List.zipWith (List.zipWith xor) a b

/-- The delta of one row, `left` being the pixel left of it (42_codec_a_planes.md R198). -/
def deltaRow : Bool → List Bool → List Bool
  | _, [] => []
  | left, b :: row => xor b left :: deltaRow b row

/-- `Delta(M)`: each row starts afresh with 0 (42_codec_a_planes.md R198). -/
def delta (pl : Plane) : Plane :=
  pl.map (deltaRow false)

/-- The running XOR of one row from a carry (42_codec_a_planes.md R200). -/
def undeltaRow : Bool → List Bool → List Bool
  | _, [] => []
  | carry, d :: row => xor carry d :: undeltaRow (xor carry d) row

/-- `Undelta(D)`: the carry restarts at 0 on every row (42_codec_a_planes.md R200). -/
def undelta (pl : Plane) : Plane :=
  pl.map (undeltaRow false)

/-- The carry left after the last row of an undone delta: its last pixel (42_codec_a_planes.md R200). -/
def lastCarry (pl : Plane) : Bool :=
  (pl.getLastD []).getLastD false

/-- What the decoder rebuilds from two pair sequences. -/
structure Rebuilt where
  pl0 : Plane
  pl1 : Plane
  carry : Bool
  data : List Byte
  deriving DecidableEq, Repr

/-- `Reconstruct` (42_codec_a_planes.md R201): `rams[order]` from the first plane, `rams[order ⊕ 1]` from the second. -/
def reconstruct (first second : List Pair) (w : Nat) (order : Bool) (mode : Nat) : Rebuilt :=
  let a := undelta (unpair first w)
  let b := if mode ≠ 1 then undelta (unpair second w) else unpair second w
  let carry := lastCarry (if mode ≠ 1 then b else a)
  let c := if mode ≠ 0 then xorPlane b a else b
  let pl0 := if order then c else a
  let pl1 := if order then a else c
  { pl0 := pl0, pl1 := pl1, carry := carry, data := repack pl0 pl1 w }

/-! ### Nibble tables (42_codec_a_planes.md R203)

An equivalent way to compute the row delta, four pixels at a time, the leftmost pixel as bit 3. -/

/-- `E_c(n)` by its formula (42_codec_a_planes.md R203). -/
def nibbleDelta (c : Bool) (n : BitVec 4) : BitVec 4 :=
  n ^^^ (n >>> 1) ^^^ (BitVec.ofNat 4 (8 * c.toNat))

/-- `D_c(g)`: the running XOR from bit 3 to bit 0 (42_codec_a_planes.md R203). -/
def nibbleUndelta (c : Bool) (g : BitVec 4) : BitVec 4 :=
  BitVec.ofNat 4 (natOfBits (undeltaRow c (bitsOfNat 4 g.toNat)))

/-- The table `E_c` (42_codec_a_planes.md R203). -/
def deltaTable (c : Bool) : List (BitVec 4) :=
  if c then [0x8, 0x9, 0xB, 0xA, 0xE, 0xF, 0xD, 0xC, 0x4, 0x5, 0x7, 0x6, 0x2, 0x3, 0x1, 0x0]
  else [0x0, 0x1, 0x3, 0x2, 0x6, 0x7, 0x5, 0x4, 0xC, 0xD, 0xF, 0xE, 0xA, 0xB, 0x9, 0x8]

/-- The table `D_c` (42_codec_a_planes.md R203). -/
def undeltaTable (c : Bool) : List (BitVec 4) :=
  if c then [0xF, 0xE, 0xC, 0xD, 0x8, 0x9, 0xB, 0xA, 0x0, 0x1, 0x3, 0x2, 0x7, 0x6, 0x4, 0x5]
  else [0x0, 0x1, 0x3, 0x2, 0x7, 0x6, 0x4, 0x5, 0xF, 0xE, 0xC, 0xD, 0x8, 0x9, 0xB, 0xA]

/-- A row's delta by the tables, nibble by nibble; `c` is the original pixel left of the nibble (42_codec_a_planes.md
R203). -/
def deltaByTable : Bool → List Bool → List Bool
  | c, p3 :: p2 :: p1 :: p0 :: row =>
    bitsOfNat 4 ((deltaTable c).getD (natOfBits [p3, p2, p1, p0]) 0).toNat ++ deltaByTable p0 row
  | _, _ => []

/-- A row's delta undone by the tables; the next carry is bit 0 of the decoded nibble (42_codec_a_planes.md R203). -/
def undeltaByTable : Bool → List Bool → List Bool
  | c, g3 :: g2 :: g1 :: g0 :: row =>
    let n := (undeltaTable c).getD (natOfBits [g3, g2, g1, g0]) 0
    bitsOfNat 4 n.toNat ++ undeltaByTable (n.getLsbD 0) row
  | _, _ => []

end Sys2Proof.Machine
end

