-- ==== Sys2Proof/Machine/CodecA.lean ====
section
/-! DEFINITION. The meanings of the Codec A stream tokens: the stream decoder of 43_codec_a_rle.md R250 and its plane
decoder R236, one token a step (log 7). A meaning runs with `rc` past the token. -/

namespace Sys2Proof.Machine

/-- N of the plane being decoded (43_codec_a_rle.md R230). -/
def State.planeSize (s : State) : Nat :=
  Config.planePairs s.work.width

/-- After the first plane the mode field is next, after the second the padding (43_codec_a_rle.md R250). -/
def State.endPlane (s : State) (seq : List Pair) : State :=
  if s.work.second then (s.setWork { s.work with seq := seq }).goto .aPad
  else (s.setWork { s.work with seq := seq, firstSeq := seq }).goto .aMode

/-- Take the produced pairs `seq`: the plane ends the moment it is full, else the packet of type `next` goes on
(43_codec_a_rle.md R236). -/
def State.produce (s : State) (seq : List Pair) (next : Packet) : State :=
  if seq.length = s.planeSize then s.endPlane seq
  else (s.setWork { s.work with seq := seq, packet := next }).goto .aPacket

/-- A plane's first packet (43_codec_a_rle.md R236). -/
def State.startPlane (s : State) (packet : Packet) : State :=
  (s.setWork { s.work with seq := [], packet := packet }).goto .aPacket

/-- The mode field has been read: the second plane is next (43_codec_a_rle.md R250). -/
def State.setMode (s : State) (mode : Nat) : State :=
  (s.setWork { s.work with mode := mode, second := true }).goto .aStart

/-- A_HDR: the square check, then the size check (43_codec_a_rle.md R250). -/
def execAHdr (w h : Nat) (s : State) : Answer :=
  .next (
    if w ≠ h then s.raise .nonSquareImage
    else if w = 0 then s.raise .invalidImageSize
    else (s.setWork { s.work with width := w }).goto .aOrd)

/-- A_ORD (43_codec_a_rle.md R250). -/
def execAOrd (order : Bool) (s : State) : Answer :=
  .next ((s.setWork { s.work with order := order }).goto .aStart)

/-- A_S0: the first packet is an RLE packet (30_encoding.md R94). -/
def execAS0 (s : State) : Answer :=
  .next (s.startPlane .rle)

/-- A_S1: the first packet is a data packet (30_encoding.md R94). -/
def execAS1 (s : State) : Answer :=
  .next (s.startPlane .data)

/-- A_P: one pair (43_codec_a_rle.md R236). -/
def execAP (pair : Pair) (s : State) : Answer :=
  .next (s.produce (s.work.seq ++ [pair]) .data)

/-- A_T: no pair, and an RLE packet is next (43_codec_a_rle.md R236, R237). -/
def execAT (s : State) : Answer :=
  .next ((s.setWork { s.work with packet := .rle }).goto .aPacket)

/-- A_RUN: `base(w) + v` zero pairs, or DATA_OVERFLOW where they would take the plane past N
(43_codec_a_rle.md R222, R236). -/
def execARun (w v : Nat) (s : State) : Answer :=
  .next (
    if s.work.seq.length + (runBase w + v) > s.planeSize then s.raise .dataOverflow
    else s.produce (s.work.seq ++ List.replicate (runBase w + v) 0) .data)

/-- A_M0 (43_codec_a_rle.md R240). -/
def execAM0 (s : State) : Answer :=
  .next (s.setMode 0)

/-- A_M1 (43_codec_a_rle.md R240). -/
def execAM1 (s : State) : Answer :=
  .next (s.setMode 1)

/-- A_M2 (43_codec_a_rle.md R240). -/
def execAM2 (s : State) : Answer :=
  .next (s.setMode 2)

/-- A_PAD: the padding bits are ignored, and both planes being complete the data are rebuilt and returned
(30_encoding.md R98, 43_codec_a_rle.md R250, 40_operations.md R150). How many bits there are makes no difference. -/
def execAPad (_n : Nat) (s : State) : Answer :=
  let r := reconstruct s.work.firstSeq s.work.seq s.work.width s.work.order s.work.mode
  .next ((s.setWork { s.work with pl0 := r.pl0, pl1 := r.pl1, rowCarry := r.carry }).complete r.data
    (infoOf s.work.width s.work.order s.work.mode))

end Sys2Proof.Machine
end

