-- ==== Sys2Proof/Machine/CodecB.lean ====
section
/-! DEFINITION. The meanings of the Codec B headers, END and the copy offsets (44_codec_b_commands.md R293 to R304). A
meaning runs with `rp` past the header; it reads its own payload. LIT, ITER, ALT and ZERO append in that step. A copy
header goes to PAYLOAD, and the offset row appends (log 7). -/

namespace Sys2Proof.Machine

/-- Read `n` payload bytes and append what they stand for (44_codec_b_commands.md R290, R303 steps 3, 5 and 6). -/
def State.withPayload (s : State) (n : Nat) (bytes : List Byte → List Byte) : State :=
  match s.getBytes n with
  | none => s.raise .truncatedStream
  | some (payload, s') => s'.append (bytes payload)

/-- The bytes of an alternation (44_codec_b_commands.md R295). -/
def altBytes (len : Nat) (payload : List Byte) : List Byte :=
  (List.range len).map fun j => if j % 2 = 0 then payload.getD 0 0 else payload.getD 1 0

/-- Literal run of `len` bytes (44_codec_b_commands.md R293). -/
def State.runLit (s : State) (len : Nat) : State :=
  s.withPayload len id

/-- Single-byte repeat (44_codec_b_commands.md R294). -/
def State.runIter (s : State) (len : Nat) : State :=
  s.withPayload 1 fun payload => List.replicate len (payload.getD 0 0)

/-- Two-byte alternation (44_codec_b_commands.md R295). -/
def State.runAlt (s : State) (len : Nat) : State :=
  s.withPayload 2 (altBytes len)

/-- Zero run (44_codec_b_commands.md R296). -/
def State.runZero (s : State) (len : Nat) : State :=
  s.append (List.replicate len 0)

/-- LIT. -/
def execLit (len : Nat) (s : State) : Answer :=
  .next (s.runLit len)

/-- LIT, long header. -/
def execLitLong (len : Nat) (s : State) : Answer :=
  .next (s.runLit len)

/-- ITER. -/
def execIter (len : Nat) (s : State) : Answer :=
  .next (s.runIter len)

/-- ITER, long header. -/
def execIterLong (len : Nat) (s : State) : Answer :=
  .next (s.runIter len)

/-- ALT. -/
def execAlt (len : Nat) (s : State) : Answer :=
  .next (s.runAlt len)

/-- ALT, long header. -/
def execAltLong (len : Nat) (s : State) : Answer :=
  .next (s.runAlt len)

/-- ZERO. -/
def execZero (len : Nat) (s : State) : Answer :=
  .next (s.runZero len)

/-- ZERO, long header. -/
def execZeroLong (len : Nat) (s : State) : Answer :=
  .next (s.runZero len)

/-- REPEAT (44_codec_b_commands.md R297). -/
def execRep (len : Nat) (s : State) : Answer :=
  .next (s.awaitOffset .rep len)

/-- REPEAT, long header. -/
def execRepLong (len : Nat) (s : State) : Answer :=
  .next (s.awaitOffset .rep len)

/-- FLIP (44_codec_b_commands.md R298). -/
def execFlip (len : Nat) (s : State) : Answer :=
  .next (s.awaitOffset .flip len)

/-- FLIP, long header. -/
def execFlipLong (len : Nat) (s : State) : Answer :=
  .next (s.awaitOffset .flip len)

/-- REVERSE (44_codec_b_commands.md R299). -/
def execReverse (len : Nat) (s : State) : Answer :=
  .next (s.awaitOffset .reverse len)

/-- REVERSE, long header. -/
def execReverseLong (len : Nat) (s : State) : Answer :=
  .next (s.awaitOffset .reverse len)

/-- Header byte 0xFC (44_codec_b_commands.md R272). -/
def execLongReservedFC (s : State) : Answer :=
  .next (s.raise .invalidCommand)

/-- Header byte 0xFD (44_codec_b_commands.md R272). -/
def execLongReservedFD (s : State) : Answer :=
  .next (s.raise .invalidCommand)

/-- Header byte 0xFE (44_codec_b_commands.md R272). -/
def execLongReservedFE (s : State) : Answer :=
  .next (s.raise .invalidCommand)

/-- END (44_codec_b_commands.md R290, R304): the output is the result, with INFO 0 (40_operations.md R160). -/
def execStop (s : State) : Answer :=
  .next (s.complete s.work.out 0)

/-- Relative offset: the source is `cur − d`, which may be negative (44_codec_b_commands.md R273), and the waiting copy
runs (R297 to R299, R303). -/
def execOffRel (d : Nat) (s : State) : Answer :=
  .next (s.runCopy ((s.work.out.length : Int) - d))

/-- Absolute offset: the source is the 15-bit value (44_codec_b_commands.md R273), and the waiting copy runs. -/
def execOffAbs (src : Nat) (s : State) : Answer :=
  .next (s.runCopy (src : Int))

end Sys2Proof.Machine
end

