-- ==== Sys2Proof/Machine/Matcher.lean ====
section
/-! DEFINITION. The Codec B compressor: cost model, candidates, greedy matcher, optimizer and serializer
(45_codec_b_matcher.md), with the parameters of 00_scope.md R10 as an argument. -/

namespace Sys2Proof.Machine

/-! ### Encoding one command -/

/-- `hdr(L)` (45_codec_b_matcher.md R321). -/
def headerSize (len : Nat) : Nat :=
  if len ≤ Config.shortLen then 1 else 2

/-- The kind code of a command (30_encoding.md R100). -/
def Body.kind : Body → Nat
  | .lit => 0
  | .iter _ => 1
  | .alt _ _ => 2
  | .zero => 3
  | .copy .rep _ => 4
  | .copy .flip _ => 5
  | .copy .reverse _ => 6

/-- `EncodeHeader(kind, L)`: short exactly when `L ≤ 32` (44_codec_b_commands.md R271). -/
def encodeHeader (kind len : Nat) : List Byte :=
  encodeBytes (if len ≤ Config.shortLen then shortRow kind len else longRow kind len)

/-- `EncodeOffset(cur, src)`: relative exactly when the distance is at most 127 (44_codec_b_commands.md R273). -/
def encodeOffset (cur src : Nat) : List Byte :=
  encodeBytes (if cur - src ≤ Config.relMax then .offRel (cur - src) else .offAbs src)

/-- `ocost(i, p)` for a copy at `i` from `p < i`, nothing where the offset cannot be encoded
(45_codec_b_matcher.md R322). -/
def offsetCost (i p : Nat) : Option Nat :=
  if 1 ≤ i - p ∧ i - p ≤ Config.relMax then some 1
  else if p ≤ Config.absMax then some 2
  else none

/-- The bytes a command's payload takes (45_codec_b_matcher.md R321). A copy's offset can always be encoded where the
matcher proposes it. -/
def payloadSize (c : Cmd) : Nat :=
  match c.body with
  | .lit => c.len
  | .iter _ => 1
  | .alt _ _ => 2
  | .zero => 0
  | .copy _ src => (offsetCost c.pos src).getD 2

/-- The encoded cost of a command (45_codec_b_matcher.md R321). -/
def cmdSize (c : Cmd) : Nat :=
  headerSize c.len + payloadSize c

/-- `savings = L − cost` (45_codec_b_matcher.md R321). -/
def savings (c : Cmd) : Int :=
  (c.len : Int) - cmdSize c

/-! ### Candidates -/

/-- `data[a]`. -/
def byteAt (data : List Byte) (a : Nat) : Byte :=
  data.getD a 0

/-- The largest `L ≤ m` such that `ok (j + k)` holds for every `k < L`. -/
def runLen (ok : Nat → Bool) : Nat → Nat → Nat
  | 0, _ => 0
  | m + 1, j => if ok j then runLen ok m (j + 1) + 1 else 0

/-- `M = min(1024, n − i)` (45_codec_b_matcher.md R323). -/
def roomAt (data : List Byte) (i : Nat) : Nat :=
  min Config.maxLen (data.length - i)

/-- The condition of 45_codec_b_matcher.md R323 on `j < L` for a copy at `i` from `p`. -/
def copyMatches (data : List Byte) (kind : CopyKind) (i p j : Nat) : Bool :=
  match kind with
  | .rep => byteAt data (p + j) == byteAt data (i + j)
  | .flip => rev8 (byteAt data (p + j)) == byteAt data (i + j)
  | .reverse => decide (j ≤ p) && byteAt data (p - j) == byteAt data (i + j)

/-- The source positions of 45_codec_b_matcher.md R325, nearest first. -/
def sources (P : Params) (i : Nat) : List Nat :=
  (List.range (min i P.scanWindow)).map fun k => i - 1 - k

/-- The copy candidate of a kind at `i` from `p`, where the offset can be encoded and `L ≥ 1`
(45_codec_b_matcher.md R322, R323). -/
def copyCandidate (data : List Byte) (kind : CopyKind) (i p : Nat) : Option Cmd :=
  match offsetCost i p with
  | none => none
  | some _ =>
    match runLen (copyMatches data kind i p) (roomAt data i) 0 with
    | 0 => none
    | len + 1 => some { body := .copy kind p, len := len + 1, pos := i }

/-- The candidates at `i` in the order of 45_codec_b_matcher.md R324. -/
def candidates (P : Params) (data : List Byte) (i : Nat) : List Cmd :=
  let a := byteAt data i
  let b := byteAt data (i + 1)
  let m := roomAt data i
  let zeros := runLen (fun j => byteAt data (i + j) == 0) m 0
  let same := runLen (fun j => byteAt data (i + j) == a) m 0
  let alts := runLen (fun j => byteAt data (i + j) == byteAt data (i + j % 2)) m 0
  (if a = 0 then [{ body := .zero, len := zeros, pos := i }] else []) ++
    [{ body := .iter a, len := same, pos := i }] ++
    (if 2 ≤ m then [{ body := .alt a b, len := alts, pos := i }] else []) ++
    (sources P i).filterMap (copyCandidate data .rep i) ++
    (sources P i).filterMap (copyCandidate data .flip i) ++
    (sources P i).filterMap (copyCandidate data .reverse i)

/-- One turn of `Best`: only strictly larger savings replace the best, so ties keep the earlier
(45_codec_b_matcher.md R324). -/
def better (best : Option Cmd) (c : Cmd) : Option Cmd :=
  match best with
  | none => some c
  | some b => if savings c > savings b then some c else some b

/-- `Best(i)` (45_codec_b_matcher.md R324). It is never nothing, because ITER always exists. -/
def bestAt (P : Params) (data : List Byte) (i : Nat) : Option Cmd :=
  (candidates P data i).foldl better none

/-- `savings(Best(i))`. -/
def bestSavings (P : Params) (data : List Byte) (i : Nat) : Int :=
  (bestAt P data i).elim (-1) savings

/-! ### The main loop -/

/-- Literal extension from length `len` at `i`, in at most `fuel` turns (45_codec_b_matcher.md R327). -/
def literalLen (P : Params) (data : List Byte) (i : Nat) : Nat → Nat → Nat
  | 0, len => len
  | fuel + 1, len =>
    if i + len < data.length ∧ len < P.litCap ∧ bestSavings P data (i + len) < P.litStop then
      literalLen P data i fuel (len + 1)
    else len

/-- The command the matcher takes at `i`: `Best(i)` when its savings are at least 0, else a literal run
(45_codec_b_matcher.md R326 to R328). -/
def chooseAt (P : Params) (data : List Byte) (i : Nat) : Cmd :=
  let literal : Cmd := { body := .lit, len := literalLen P data i data.length 1, pos := i }
  match bestAt P data i with
  | none => literal
  | some c => if savings c < 0 then literal else c

/-- The matcher's state: the position `i`, the command list and the last best candidate (45_codec_b_matcher.md R328,
10_state.md R39). -/
structure MatchState where
  pos : Nat
  cmds : List Cmd
  best : Option Cmd
  deriving DecidableEq, Repr

/-- The match loop, in at most `fuel` turns (45_codec_b_matcher.md R328). -/
def matchLoop (P : Params) (data : List Byte) : Nat → MatchState → MatchState
  | 0, st => st
  | fuel + 1, st =>
    if st.pos < data.length then
      let c := chooseAt P data st.pos
      matchLoop P data fuel
        { pos := st.pos + c.len, cmds := st.cmds ++ [c], best := bestAt P data st.pos }
    else st

/-- The matcher run over the whole input: one turn per byte is enough, since each command covers at least one
(70_reset_and_hazards.md R420). -/
def runMatcher (P : Params) (data : List Byte) : MatchState :=
  matchLoop P data data.length { pos := 0, cmds := [], best := none }

/-- `Match(data)` (45_codec_b_matcher.md R328). -/
def matchAll (P : Params) (data : List Byte) : List Cmd :=
  (runMatcher P data).cmds

/-! ### The optimizer -/

/-- Whether a command is a copy. -/
def Body.isCopy : Body → Bool
  | .copy _ _ => true
  | _ => false

/-- `Absorbs(x, c)` (45_codec_b_matcher.md R331). -/
def absorbs (x c : Cmd) : Bool :=
  x.body == .lit && c.body.isCopy && cmdSize c == c.len && decide (x.len + c.len ≤ Config.maxLen)

/-- `SameKind(x, c)` (45_codec_b_matcher.md R332). -/
def sameKind (x c : Cmd) : Bool :=
  match x.body, c.body with
  | .lit, .lit => x.pos + x.len == c.pos
  | .iter a, .iter b => a == b
  | .zero, .zero => true
  | _, _ => false

/-- One turn of the optimizer's fold (45_codec_b_matcher.md R330, R333, R334). The output list is kept last command
first. -/
def optimizeStep (out : List Cmd) (c : Cmd) : List Cmd :=
  match out with
  | [] => [c]
  | x :: rest =>
    if absorbs x c then { x with len := x.len + c.len } :: rest
    else if sameKind x c then
      if x.len + c.len ≤ Config.maxLen then { x with len := x.len + c.len } :: rest
      else
        { c with len := x.len + c.len - Config.maxLen, pos := x.pos + Config.maxLen } ::
          { x with len := Config.maxLen } :: rest
    else c :: x :: rest

/-- `Optimize(cmds)` (45_codec_b_matcher.md R330). -/
def optimize (cmds : List Cmd) : List Cmd :=
  (cmds.foldl optimizeStep []).reverse

/-! ### The serializer -/

/-- The payload bytes of a command, taken from the data at its position (45_codec_b_matcher.md R345,
44_codec_b_commands.md R275). -/
def payloadBytes (data : List Byte) (c : Cmd) : List Byte :=
  match c.body with
  | .lit => (data.drop c.pos).take c.len
  | .iter _ => [byteAt data c.pos]
  | .alt _ _ => [byteAt data c.pos, byteAt data (c.pos + 1)]
  | .zero => []
  | .copy _ src => encodeOffset c.pos src

/-- `EncodeCommand(c, c.pos)` (44_codec_b_commands.md R275). -/
def encodeCmd (data : List Byte) (c : Cmd) : List Byte :=
  encodeHeader c.body.kind c.len ++ payloadBytes data c

/-- The number of padding bytes after `n` bytes (45_codec_b_matcher.md R345). -/
def padCount (n align : Nat) : Nat :=
  (align - n % align) % align

/-- `Serialize(data, cmds, align)` (45_codec_b_matcher.md R345). -/
def serialize (data : List Byte) (cmds : List Cmd) (align : Nat) : List Byte :=
  let s := cmds.flatMap (encodeCmd data) ++ [Config.sentinel]
  s ++ List.replicate (padCount s.length align) 0

/-- `B_Compress(data, align)` from the matcher's list (45_codec_b_matcher.md R350): the empty input gives the sentinel
alone, whatever `align` is (90_conflicts.md C11). -/
def bCompress (P : Params) (data : List Byte) (align : Nat) : List Byte :=
  if data.isEmpty then [Config.sentinel]
  else serialize data (optimize (matchAll P data)) align

end Sys2Proof.Machine
end

