-- ==== Sys2Proof/Machine/RunLength.lean ====
section
/-! DEFINITION. The run-length code, the plane encoder and the stream encoder of Codec A (43_codec_a_rle.md R220, R231,
R232, R240, R245). What they write are the tokens of spec/opcode_table.json, through `encode`. -/

namespace Sys2Proof.Machine

/-- The RLE packet of a run of `n ≥ 1` zero pairs: class `w = ⌊log2(n + 1)⌋ − 1` and offset `n − base(w)`
(43_codec_a_rle.md R220). -/
def runToken (n : Nat) : Instr :=
  let w := Nat.log2 (n + 1) - 1
  .aRun w (n - runBase w)

/-- `RunCode(n)` (43_codec_a_rle.md R220). -/
def runCode (n : Nat) : List Bool :=
  encode (runToken n)

/-- The plane encoder's state: the `rle` flag, the run count, and the bits written (43_codec_a_rle.md R232). -/
structure PlaneEnc where
  rle : Bool
  count : Nat
  wb : List Bool
  deriving DecidableEq, Repr

/-- The start bit: 0 when the first pair is a zero pair (43_codec_a_rle.md R231). -/
def PlaneEnc.start (wb : List Bool) (seq : List Pair) : PlaneEnc :=
  let rle := seq.headD 0 == 0
  { rle := rle, count := 0, wb := wb ++ encode (if rle then .aS0 else .aS1) }

/-- One turn of the plane encoder's loop (43_codec_a_rle.md R232). -/
def PlaneEnc.put (st : PlaneEnc) (v : Pair) : PlaneEnc :=
  if st.rle then
    if v = 0 then { st with count := st.count + 1 }
    else { rle := false, count := st.count, wb := st.wb ++ runCode st.count ++ encode (.aP v) }
  else
    if v = 0 then { rle := true, count := 1, wb := st.wb ++ encode .aT }
    else { st with wb := st.wb ++ encode (.aP v) }

/-- The final run, where the plane ends in RLE mode (43_codec_a_rle.md R232). -/
def PlaneEnc.flush (st : PlaneEnc) : PlaneEnc :=
  if st.rle then { st with wb := st.wb ++ runCode st.count } else st

/-- `EncodePlane(seq)` after the bits `wb` (43_codec_a_rle.md R232). -/
def encodePlane (wb : List Bool) (seq : List Pair) : PlaneEnc :=
  (seq.foldl PlaneEnc.put (PlaneEnc.start wb seq)).flush

/-- `WriteMode(m)`'s token (43_codec_a_rle.md R240). -/
def modeToken (mode : Nat) : Instr :=
  match mode with
  | 0 => .aM0
  | 1 => .aM1
  | _ => .aM2

/-- What the stream encoder leaves: the two planes it coded and the plane encoder's last state. -/
structure Encoded where
  pl0 : Plane
  pl1 : Plane
  enc : PlaneEnc
  deriving DecidableEq, Repr

/-- `A_EncodeStream(data, w, swap, mode)` (43_codec_a_rle.md R245), in the step order of 42_codec_a_planes.md R199. -/
def aEncode (data : List Byte) (w : Nat) (swap : Bool) (mode : Nat) : Encoded :=
  let raw0 := extract data w swap.toNat
  let raw1 := extract data w (1 - swap.toNat)
  let mixed := if mode ≠ 0 then xorPlane raw1 raw0 else raw1
  let bp0 := delta raw0
  let bp1 := if mode ≠ 1 then delta mixed else mixed
  let header := encode (.aHdr w w) ++ encode (.aOrd swap)
  let one := encodePlane header (pairsOf bp0 w)
  let two := encodePlane (one.wb ++ encode (modeToken mode)) (pairsOf bp1 w)
  { pl0 := if swap then bp1 else bp0, pl1 := if swap then bp0 else bp1, enc := two }

/-- The bits of `A_EncodeStream` (43_codec_a_rle.md R245). -/
def aEncodeStream (data : List Byte) (w : Nat) (swap : Bool) (mode : Nat) : List Bool :=
  (aEncode data w swap mode).enc.wb

/-- The six choices of A_COMPRESS_AUTO, in order (40_operations.md R145). -/
def autoChoices : List (Bool × Nat) :=
  [(false, 0), (false, 1), (false, 2), (true, 0), (true, 1), (true, 2)]

/-- One turn of the loop of A_COMPRESS_AUTO: only a strictly shorter result replaces the best (40_operations.md R145). -/
def autoStep (data : List Byte) (w : Nat) (best : Option AutoBest) (c : Bool × Nat) : Option AutoBest :=
  let r := pack (aEncodeStream data w c.1 c.2)
  let new : AutoBest := { bytes := r, swap := c.1, mode := c.2 }
  match best with
  | none => some new
  | some b => if r.length < b.bytes.length then some new else some b

/-- The best of the six results (40_operations.md R145). -/
def autoBest (data : List Byte) (w : Nat) : Option AutoBest :=
  autoChoices.foldl (autoStep data w) none

end Sys2Proof.Machine
end

