-- ==== Sys2Proof/Machine/Operations.lean ====
section
/-! DEFINITION. The meanings of the operation codes (40_operations.md R133 to R160). A compressor runs whole in its one
step and leaves its working registers as its last turn left them; a decoder starts here, and the rows of its stream are
the steps that follow (log 7). -/

namespace Sys2Proof.Machine

/-- Run an operation on `input`, after the length check that every operation makes first (40_operations.md R133). -/
def State.withInput (s : State) (run : List Byte → State) : State :=
  match s.input with
  | .error e => s.raise e
  | .ok data => run data

/-- The working registers after a Codec A compression (10_state.md R37, R38). -/
def Work.afterEncode (e : Encoded) (best : Option AutoBest) : Work :=
  { Work.init with
    wb := e.enc.wb, pl0 := e.pl0, pl1 := e.pl1, rle := e.enc.rle, count := e.enc.count, autoBest := best }

/-- The working registers after a Codec B compression (10_state.md R39). -/
def Work.afterMatch (m : MatchState) (opt : List Cmd) : Work :=
  { Work.init with cmds := m.cmds, pos := m.pos, best := m.best, opt := opt }

/-- A Codec A compression of checked data with given parameters: the packed stream, and INFO with what it used
(40_operations.md R140). -/
def State.compressA (s : State) (data : List Byte) (w : Nat) (swap : Bool) (mode : Nat) : State :=
  let e := aEncode data w swap mode
  (s.setWork (Work.afterEncode e none)).complete (pack e.enc.wb) (infoOf w swap mode)

/-- A_COMPRESS (40_operations.md R140). -/
def execACompress (s : State) : Answer :=
  .next (s.withInput fun data =>
    match checkCompress (paramWidth s.lParam) (paramMode s.lParam) data.length with
    | .error e => s.raise e
    | .ok () => s.compressA data (paramWidth s.lParam) (paramSwap s.lParam) (paramMode s.lParam))

/-- A_COMPRESS_AUTO (40_operations.md R145): the shortest of the six results. The last encoding made is the one for
(1, 2), so its planes and bits are what the working registers hold. -/
def execACompressAuto (s : State) : Answer :=
  .next (s.withInput fun data =>
    match autoWidth (paramWidth s.lParam) data.length with
    | .error e => s.raise e
    | .ok w =>
      match autoBest data w with
      | none => s.compressA data w false 0
      | some b =>
        (s.setWork (Work.afterEncode (aEncode data w true 2) (some b))).complete b.bytes
          (infoOf w b.swap b.mode))

/-- A_DECOMPRESS (40_operations.md R150, 43_codec_a_rle.md R250): the stream is read from its start. -/
def execADecompress (s : State) : Answer :=
  .next (s.withInput fun _ => s.beginDecode .aHdr)

/-- B_COMPRESS (40_operations.md R155). -/
def execBCompress (s : State) : Answer :=
  .next (s.withInput fun data =>
    if s.lAlign = 0 then s.raise .invalidAlignment
    else
      let m := runMatcher s.cfg data
      (s.setWork (Work.afterMatch m (optimize m.cmds))).complete
        (bCompress s.cfg data s.lAlign.toNat) 0)

/-- B_DECOMPRESS (40_operations.md R160, 44_codec_b_commands.md R290): the stream is read from its start. -/
def execBDecompress (s : State) : Answer :=
  .next (s.withInput fun _ => s.beginDecode .bScan)

/-- OP = 0 (40_operations.md R133, 30_encoding.md R107). -/
def execOpReserved0 (s : State) : Answer :=
  .next (s.raise .invalidOperation)

/-- OP = 6 (40_operations.md R133, 30_encoding.md R107). -/
def execOpReserved6 (s : State) : Answer :=
  .next (s.raise .invalidOperation)

/-- OP = 7 (40_operations.md R133, 30_encoding.md R107). -/
def execOpReserved7 (s : State) : Answer :=
  .next (s.raise .invalidOperation)

end Sys2Proof.Machine
end

