-- ==== Sys2Proof/Machine/Dispatch.lean ====
section
/-! DEFINITION. The dispatch: one arm for each row of spec/opcode_table.json, each one call of the row's meaning. -/

namespace Sys2Proof.Machine

def exec (i : Instr) (s : State) : Host.Outcome State Fault Refusal :=
  match i with
  -- operation codes (40_operations.md)
  | .aCompress => Sys2Proof.Machine.execACompress s
  | .aCompressAuto => Sys2Proof.Machine.execACompressAuto s
  | .aDecompress => Sys2Proof.Machine.execADecompress s
  | .bCompress => Sys2Proof.Machine.execBCompress s
  | .bDecompress => Sys2Proof.Machine.execBDecompress s
  | .opReserved0 => Sys2Proof.Machine.execOpReserved0 s
  | .opReserved6 => Sys2Proof.Machine.execOpReserved6 s
  | .opReserved7 => Sys2Proof.Machine.execOpReserved7 s
  -- Codec B headers (44_codec_b_commands.md)
  | .lit len => Sys2Proof.Machine.execLit len s
  | .iter len => Sys2Proof.Machine.execIter len s
  | .alt len => Sys2Proof.Machine.execAlt len s
  | .zero len => Sys2Proof.Machine.execZero len s
  | .rep len => Sys2Proof.Machine.execRep len s
  | .flip len => Sys2Proof.Machine.execFlip len s
  | .reverse len => Sys2Proof.Machine.execReverse len s
  | .litLong len => Sys2Proof.Machine.execLitLong len s
  | .iterLong len => Sys2Proof.Machine.execIterLong len s
  | .altLong len => Sys2Proof.Machine.execAltLong len s
  | .zeroLong len => Sys2Proof.Machine.execZeroLong len s
  | .repLong len => Sys2Proof.Machine.execRepLong len s
  | .flipLong len => Sys2Proof.Machine.execFlipLong len s
  | .reverseLong len => Sys2Proof.Machine.execReverseLong len s
  | .longReservedFC => Sys2Proof.Machine.execLongReservedFC s
  | .longReservedFD => Sys2Proof.Machine.execLongReservedFD s
  | .longReservedFE => Sys2Proof.Machine.execLongReservedFE s
  | .stop => Sys2Proof.Machine.execStop s
  -- Codec B copy offsets (44_codec_b_commands.md)
  | .offRel d => Sys2Proof.Machine.execOffRel d s
  | .offAbs src => Sys2Proof.Machine.execOffAbs src s
  -- Codec A tokens (43_codec_a_rle.md)
  | .aHdr w h => Sys2Proof.Machine.execAHdr w h s
  | .aOrd order => Sys2Proof.Machine.execAOrd order s
  | .aS0 => Sys2Proof.Machine.execAS0 s
  | .aS1 => Sys2Proof.Machine.execAS1 s
  | .aP pair => Sys2Proof.Machine.execAP pair s
  | .aT => Sys2Proof.Machine.execAT s
  | .aRun w v => Sys2Proof.Machine.execARun w v s
  | .aM0 => Sys2Proof.Machine.execAM0 s
  | .aM1 => Sys2Proof.Machine.execAM1 s
  | .aM2 => Sys2Proof.Machine.execAM2 s
  | .aPad n => Sys2Proof.Machine.execAPad n s

end Sys2Proof.Machine
end

