-- ==== Sys2Proof/Machine/Fetch.lean ====
section
/-! DEFINITION. What the engine fetches next (10_state.md R34): at the start of an operation the code in L_OP, in a decoder
the token or command at the read cursor. Also where a bare table word is put for the next step to fetch it (log 5). -/

namespace Sys2Proof.Machine

/-- What a fetch answers: nothing while IDLE, an instruction with the state whose cursor is past it, or the error of a
stream that ends or overflows inside it. -/
inductive Fetched where
  | idle
  | run (i : Instr) (s : State)
  | stop (e : Err)
  deriving DecidableEq, Repr

/-- The bits of the next bytes of the Codec B stream: two bytes hold any header and any offset (30_encoding.md R111). -/
def State.windowB (s : State) : List Bool :=
  bitsOfBytes (s.inBytes s.work.rp 2)

/-- The next bits of the Codec A stream: enough for the longest RLE packet that decodes (30_encoding.md R97, R111). -/
def State.windowA (s : State) : List Bool :=
  s.peekBits (2 * s.cfg.rlClassMax + 2) s.work.rc

/-- The padding: the bits left in the byte the cursor is in (30_encoding.md R91, R98). -/
def State.windowPad (s : State) : List Bool :=
  s.peekBits (if s.work.rc.bit = 7 then 0 else s.work.rc.bit + 1) s.work.rc

/-- Fetch from Codec B bytes: `rp` moves over the bytes taken (44_codec_b_commands.md R291). -/
def State.fetchB (s : State) (space : Space) : Fetched :=
  match decode s.cfg space s.windowB with
  | .error e => .stop e
  | .ok (i, rest) =>
    .run i (s.setWork { s.work with rp := s.work.rp + (s.windowB.length - rest.length) / 8 })

/-- Fetch from Codec A bits: `rc` moves over the bits taken (41_bit_cursor.md R170). -/
def State.fetchA (s : State) (space : Space) (window : List Bool) : Fetched :=
  match decode s.cfg space window with
  | .error e => .stop e
  | .ok (i, rest) =>
    .run i (s.setWork { s.work with rc := s.work.rc.advance (window.length - rest.length) })

/-- Where in a plane stream the packet type says to fetch (43_codec_a_rle.md R236). -/
def Packet.space : Packet → Space
  | .rle => .aRle
  | .data => .aData

/-- The fetch. -/
def State.fetch (s : State) : Fetched :=
  match s.phase with
  | .idle => .idle
  | .dispatch => .run (decodeOp s.lOp.toNat) s
  | .aHdr => s.fetchA .aHdr s.windowA
  | .aOrd => s.fetchA .aOrd s.windowA
  | .aStart => s.fetchA .aStart s.windowA
  | .aPacket => s.fetchA s.work.packet.space s.windowA
  | .aMode => s.fetchA .aMode s.windowA
  | .aPad => s.fetchA .aPad s.windowPad
  | .bScan => s.fetchB .bHeader
  | .bPayload => s.fetchB .bOffset

/-- The bytes of the longest instruction: a long LIT with 1024 payload bytes (30_encoding.md R102, R103). -/
def longestBytes : Nat :=
  2 + Config.maxLen

/-- The state in which the next step fetches an operation code: the host has written it to OP and START has been
accepted (40_operations.md R131), with nothing more to come from outside (log 5). -/
def State.placeOp (s : State) (w : Nat) : State :=
  { s with op := BitVec.ofNat 3 w, rst := false, events := [] }.start

/-- The state in which the next step fetches a Codec B header: the instruction's bytes, zeros above it, stand at the
start of IN_BUF, and B_DECOMPRESS has been started on them (40_operations.md R160, log 5). -/
def State.placeBytes (s : State) (w : Nat) : State :=
  let bytes := tableBytes w 8 ++ List.replicate (longestBytes - 8) 0
  { s with
      op := 5, inLen := BitVec.ofNat 17 longestBytes, inBuf := Memory.setBlock s.inBuf 0 bytes,
      rst := false, events := [] }.start.beginDecode .bScan

/-- A table word placed where the next step fetches it (log 5, log 6). -/
def State.placeWord (s : State) (nbits w : Nat) : State :=
  if tableIsOp nbits w then s.placeOp (w % 2 ^ nbits) else s.placeBytes (w % 2 ^ nbits)

end Sys2Proof.Machine
end

