-- ==== Sys2Proof/Machine/HostBus.lean ====
section
/-! DEFINITION. Host accesses to the window and the reset input (10_state.md R21 to R32, 20_memory.md R63, R64,
40_operations.md R131, R132, 70_reset_and_hazards.md R400, R401). -/

namespace Sys2Proof.Machine

/-- The eight host registers (10_state.md R21). -/
inductive Reg where
  | ctrl
  | status
  | op
  | param
  | align
  | inLen
  | outLen
  | info
  deriving DecidableEq, Repr

/-- What an access of a given width reaches. -/
inductive Target where
  | reg (r : Reg)
  | inByte (a : Nat)
  | outByte (a : Nat)
  /-- An unmapped offset, or the wrong width or alignment (20_memory.md R63, R64). -/
  | nothing
  deriving DecidableEq, Repr

/-- The register at a byte offset (10_state.md R21). -/
def regAt (off : Nat) : Option Reg :=
  match off with
  | 0x00 => some .ctrl
  | 0x04 => some .status
  | 0x08 => some .op
  | 0x0C => some .param
  | 0x10 => some .align
  | 0x14 => some .inLen
  | 0x18 => some .outLen
  | 0x1C => some .info
  | _ => none

/-- What an access reaches: registers as aligned 32-bit words, buffers as single bytes, nothing otherwise
(20_memory.md R63, R64). -/
def target (P : Params) (off size : Nat) : Target :=
  if size = 4 then
    match regAt off with
    | some r => .reg r
    | none => .nothing
  else if size = 1 then
    if 0x10000 ≤ off ∧ off < 0x10000 + P.bufSize then .inByte (off - 0x10000)
    else if 0x20000 ≤ off ∧ off < 0x20000 + P.bufSize then .outByte (off - 0x20000)
    else .nothing
  else .nothing

/-- A register's value as the host reads it, reserved bits 0 (10_state.md R22 to R30). -/
def State.readReg (s : State) : Reg → Word
  | .ctrl => s.ctrlWord
  | .status => s.statusWord
  | .op => s.op.setWidth 32
  | .param => s.param.setWidth 32
  | .align => s.align.setWidth 32
  | .inLen => s.inLen.setWidth 32
  | .outLen => s.outLen.setWidth 32
  | .info => s.info.setWidth 32

/-- A write that is ignored while BUSY and sets PROTO then (10_state.md R30). -/
def State.whenIdle (s : State) (write : State) : State :=
  if s.busy then s.setProto else write

/-- CLEAR and then START, as the write asks, while IDLE (10_state.md R22). -/
def State.actCtrl (s : State) (clear start : Bool) : State :=
  let s := if clear then s.clear else s
  if start then s.start else s

/-- A write of CTRL (10_state.md R22, R30): IRQ_EN always; CLEAR and START while IDLE; while BUSY, START sets PROTO and
CLEAR is ignored. -/
def State.writeCtrl (s : State) (v : Word) : State :=
  let s := { s with irqEn := v.getLsbD 2 }
  if s.busy then (if v.getLsbD 0 then s.setProto else s)
  else s.actCtrl (v.getLsbD 1) (v.getLsbD 0)

/-- A write of a register; reserved bits are dropped (10_state.md R22 to R30). -/
def State.writeReg (s : State) (r : Reg) (v : Word) : State :=
  match r with
  | .ctrl => s.writeCtrl v
  | .status => s.setProto
  | .op => s.whenIdle { s with op := v.setWidth 3 }
  | .param => s.whenIdle { s with param := v.setWidth 7 }
  | .align => s.whenIdle { s with align := v.setWidth 16 }
  | .inLen => s.whenIdle { s with inLen := v.setWidth 17 }
  | .outLen => s.setProto
  | .info => s.setProto

/-- The value of a host read goes back to the host (log 3). -/
def State.respond (s : State) (v : Word) : State :=
  { s with rdata := v }

/-- A read of OUT_BUF[a] (10_state.md R32): the byte while IDLE, and while BUSY a free byte drawn for this read
(93_implementation_defined.md U1, log 11). -/
def State.hostReadOut (s : State) (a : Nat) : State :=
  if s.busy then { s with draws := s.draws + 1 }.respond ((Config.freeByte s.draws a).setWidth 32)
  else s.respond ((s.readOut a).setWidth 32)

/-- A host read (20_memory.md R63, R64, R66). -/
def State.hostRead (s : State) (off size : Nat) : State :=
  match target s.cfg off size with
  | .reg r => s.respond (s.readReg r)
  | .inByte a => s.respond ((s.readIn a).setWidth 32)
  | .outByte a => s.hostReadOut a
  | .nothing => s.setProto.respond 0

/-- A host write (20_memory.md R63, R64, R66). -/
def State.hostWrite (s : State) (off size : Nat) (v : Word) : State :=
  match target s.cfg off size with
  | .reg r => s.writeReg r v
  | .inByte a => s.whenIdle (s.writeIn a (v.setWidth 8))
  | .outByte _ => s.setProto
  | .nothing => s.setProto

/-- A host access. -/
def State.hostAccess (s : State) : HostAccess → State
  | .read off size => s.hostRead off.toNat size
  | .write off size v => s.hostWrite off.toNat size v

/-- An event from outside. A host access while `rst` is asserted is refused (70_reset_and_hazards.md R400,
93_implementation_defined.md U4, log 8). -/
def hostStep (e : HostEvent) (s : State) : Answer :=
  match e with
  | .reset true => .next s.assertReset
  | .reset false => .next s.releaseReset
  | .access a => if s.rst then .refused .hostAccessDuringReset else .next (s.hostAccess a)

/-- The window offset of a host bus address, where it is the block's (20_memory.md R60, R69, log 9). -/
def windowOffset (addr : Nat) : Option (BitVec 18) :=
  if Config.base ≤ addr ∧ addr < Config.base + 2 ^ 18 then some (BitVec.ofNat 18 (addr - Config.base))
  else none

end Sys2Proof.Machine
end

