-- ==== Sys2Proof/Machine/Step.lean ====
section
/-! DEFINITION. The step: one move of the engine or of the host (10_state.md R20, 20_memory.md R71, log 4). -/

namespace Sys2Proof.Machine

/-- One move of the engine: it runs what it fetches, or completes with the error that the fetch met. While IDLE it keeps
every value (60_exceptions.md R390). -/
def engineStep (s : State) : Answer :=
  match s.fetch with
  | .idle => .next s
  | .run i s' => exec i s'
  | .stop e => .next (s.raise e)

/-- Whether the next move is the host's, when the outside world has an event waiting: always during reset and while
IDLE, and while BUSY as the free choice says (40_operations.md R135, log 4). -/
def hostMoves (s : State) : Bool :=
  s.rst || s.phase == .idle || Config.hostFirst s.turn

/-- The step. With nothing waiting outside, the engine moves. -/
def step (s : State) : Host.Outcome State Fault Refusal :=
  match s.events with
  | [] => engineStep s
  | e :: rest =>
    if hostMoves s then hostStep e { s with events := rest, turn := s.turn + 1 }
    else engineStep { s with turn := s.turn + 1 }

/-- `s` with a table word where the next step fetches its instruction, the bits above `nbits` being 0 (log 5, log 6). -/
def State.withFetchWord (s : State) (nbits w : Nat) : State :=
  s.placeWord nbits w

end Sys2Proof.Machine
end

