-- ==== Sys2Proof/Machine/StreamDecoders.lean ====
section
/-! DEFINITION. The two decoders as whole functions of a bit sequence (43_codec_a_rle.md R222, R236, R240, R250 and
44_codec_b_commands.md R290): the function that 10_state.md R42 says an operation is. The engine computes it one token or
command a step; statements compare the two. -/

namespace Sys2Proof.Machine

/-! ### Codec A -/

/-- `ReadRun()` (43_codec_a_rle.md R222). -/
def readRun (P : Params) (bits : List Bool) : Except Err (Nat × List Bool) := do
  let (w, bits) ← readUnary P.rlClassMax 0 bits
  let (v, bits) ← readBits (w + 1) bits
  return (runBase w + v, bits)

/-- The loop of `DecodePlane()` for a plane of `n` pairs, in at most `fuel` turns (43_codec_a_rle.md R236). -/
def decodePlaneFrom (P : Params) (n : Nat) :
    Nat → Packet → List Pair → List Bool → Except Err (List Pair × List Bool)
  | 0, _, _, _ => .error .truncatedStream
  | fuel + 1, .rle, seq, bits => do
    let (run, bits) ← readRun P bits
    if seq.length + run > n then .error .dataOverflow
    else if seq.length + run = n then return (seq ++ List.replicate run 0, bits)
    else decodePlaneFrom P n fuel .data (seq ++ List.replicate run 0) bits
  | fuel + 1, .data, seq, bits => do
    let (v, bits) ← readBits 2 bits
    if v = 0 then decodePlaneFrom P n fuel .rle seq bits
    else if seq.length + 1 = n then return (seq ++ [BitVec.ofNat 2 v], bits)
    else decodePlaneFrom P n fuel .data (seq ++ [BitVec.ofNat 2 v]) bits

/-- `DecodePlane()` for a plane of `n` pairs (43_codec_a_rle.md R236). A turn takes at least two bits, so one turn per
bit is enough. -/
def decodePlane (P : Params) (n : Nat) (bits : List Bool) : Except Err (List Pair × List Bool) := do
  let (t, bits) ← readBits 1 bits
  decodePlaneFrom P n (bits.length + 1) (if t = 0 then .rle else .data) [] bits

/-- `ReadMode()` (43_codec_a_rle.md R240). -/
def readMode (bits : List Bool) : Except Err (Nat × List Bool) := do
  let (first, bits) ← readBits 1 bits
  if first = 0 then return (0, bits)
  else
    let (second, bits) ← readBits 1 bits
    return (1 + second, bits)

/-- What `A_DecodeStream` returns (43_codec_a_rle.md R250). -/
structure Sprite where
  data : List Byte
  width : Nat
  order : Bool
  mode : Nat
  deriving DecidableEq, Repr

/-- `A_DecodeStream(in)` (43_codec_a_rle.md R250). -/
def aDecodeStream (P : Params) (bits : List Bool) : Except Err Sprite := do
  let (w, bits) ← readBits 4 bits
  let (h, bits) ← readBits 4 bits
  if w ≠ h then .error .nonSquareImage
  else if w = 0 then .error .invalidImageSize
  else
    let (order, bits) ← readBits 1 bits
    let (first, bits) ← decodePlane P (Config.planePairs w) bits
    let (mode, bits) ← readMode bits
    let (second, _) ← decodePlane P (Config.planePairs w) bits
    return { data := (reconstruct first second w (order == 1) mode).data,
             width := w, order := order == 1, mode := mode }

/-! ### Codec B -/

/-- `GetByte()` for each of `n` bytes (44_codec_b_commands.md R291). -/
def readBytes : Nat → List Bool → Except Err (List Byte × List Bool)
  | 0, bits => .ok ([], bits)
  | n + 1, bits => do
    let (b, bits) ← readBits 8 bits
    let (bs, bits) ← readBytes n bits
    return (BitVec.ofNat 8 b :: bs, bits)

/-- What a header asks for (44_codec_b_commands.md R272): a kind code and a length, END, or a reserved byte. -/
inductive Header where
  | command (kind len : Nat)
  | stop
  | reserved
  deriving DecidableEq, Repr

/-- The header that a row is (30_encoding.md R100, R105). Rows that are no header count as reserved. -/
def headerOf : Instr → Header
  | .lit n | .litLong n => .command 0 n
  | .iter n | .iterLong n => .command 1 n
  | .alt n | .altLong n => .command 2 n
  | .zero n | .zeroLong n => .command 3 n
  | .rep n | .repLong n => .command 4 n
  | .flip n | .flipLong n => .command 5 n
  | .reverse n | .reverseLong n => .command 6 n
  | .stop => .stop
  | _ => .reserved

/-- The source that an offset row names (44_codec_b_commands.md R273). -/
def offsetSource (i : Instr) (cur : Nat) : Int :=
  match i with
  | .offRel d => (cur : Int) - d
  | .offAbs src => (src : Int)
  | _ => -1

/-- The copy kind of a kind code (30_encoding.md R100). -/
def copyKindOf (kind : Nat) : CopyKind :=
  match kind with
  | 4 => .rep
  | 5 => .flip
  | _ => .reverse

/-- The capacity check before an append (44_codec_b_commands.md R302). -/
def appendFits (P : Params) (out bs : List Byte) : Except Err (List Byte) :=
  if out.length + bs.length > P.bufSize then .error .outputOverflow else .ok (out ++ bs)

/-- One command after its header: payload, offset check, capacity check, append, in the order of
44_codec_b_commands.md R303. -/
def runCommand (P : Params) (kind len : Nat) (out : List Byte) (bits : List Bool) :
    Except Err (List Byte × List Bool) :=
  match kind with
  | 0 => do
    let (bs, bits) ← readBytes len bits
    return (← appendFits P out bs, bits)
  | 1 => do
    let (bs, bits) ← readBytes 1 bits
    return (← appendFits P out (List.replicate len (bs.getD 0 0)), bits)
  | 2 => do
    let (bs, bits) ← readBytes 2 bits
    return (← appendFits P out
      ((List.range len).map fun j => if j % 2 = 0 then bs.getD 0 0 else bs.getD 1 0), bits)
  | 3 => do
    return (← appendFits P out (List.replicate len 0), bits)
  | _ => do
    let (o, bits) ← decodeOffset bits
    let src := offsetSource o out.length
    if ¬ offsetOk (copyKindOf kind) src len out.length then .error .invalidOffset
    else if out.length + len > P.bufSize then .error .outputOverflow
    else return (copyBytes (copyKindOf kind) len src.toNat out, bits)

/-- The loop of `B_Decode(in)`, in at most `fuel` turns (44_codec_b_commands.md R290). -/
def bDecodeFrom (P : Params) : Nat → List Byte → List Bool → Except Err (List Byte)
  | 0, _, _ => .error .truncatedStream
  | fuel + 1, out, bits => do
    let (i, bits) ← decodeHeader bits
    match headerOf i with
    | .stop => return out
    | .reserved => .error .invalidCommand
    | .command kind len => do
      let (out, bits) ← runCommand P kind len out bits
      bDecodeFrom P fuel out bits

/-- `B_Decode(in)` of a byte sequence (44_codec_b_commands.md R290). A turn takes at least one byte, so one turn per byte
and one more for the end of input are enough. -/
def bDecode (P : Params) (input : List Byte) : Except Err (List Byte) :=
  bDecodeFrom P (input.length + 1) [] (bitsOfBytes input)

/-- `A_DecodeStream(in)` of a byte sequence (43_codec_a_rle.md R250). -/
def aDecode (P : Params) (input : List Byte) : Except Err Sprite :=
  aDecodeStream P (bitsOfBytes input)

end Sys2Proof.Machine
end

