-- ==== Sys2Proof/Safety.lean ====
section
/-! DEFINITION. What statements call a good state and a good run: the invariant of the machine, the engine running with
nothing coming from outside, and the candidates of the Codec B matcher. -/

namespace Sys2Proof.Machine

/-- The phases in which a Codec A stream is being decoded past its header. -/
def Phase.inStreamA : Phase → Bool
  | .aOrd | .aStart | .aPacket | .aMode | .aPad => true
  | _ => false

/-- The phases of the Codec B decoder (44_codec_b_commands.md R290). -/
def Phase.inStreamB : Phase → Bool
  | .bScan | .bPayload => true
  | _ => false

/-- The invariant of the two buffers: canonical form, indexes below P_BUF_SIZE, draws that have been taken (log 1), and
while IDLE exactly the result bytes are listed (10_state.md R28, R31, R32). -/
structure State.BufferInv (s : State) : Prop where
  inWf : Memory.wf s.inBuf
  outWf : Memory.wf s.outBuf
  inBound : ∀ c ∈ s.inBuf, c.1 < s.cfg.bufSize
  outBound : ∀ c ∈ s.outBuf, c.1 < s.cfg.bufSize
  outLenBound : s.outLen.toNat ≤ s.cfg.bufSize
  inDrawn : s.inDraw < s.draws
  outDrawn : s.outDraw < s.draws
  result : s.phase = .idle → ∀ a, (Memory.get s.outBuf a).isSome = decide (a < s.outLen.toNat)

/-- The invariant of the host registers (10_state.md R23, R28, R29, R36): the error fields agree, INFO.MODE is never 3,
and while BUSY nothing is reported and the latches equal the registers. -/
structure State.RegisterInv (s : State) : Prop where
  noError : s.err = false → s.errCode = 0 ∧ s.errClass = 0
  someError : s.err = true → ∃ e : Err, s.errCode = e.code ∧ s.errClass = e.cls
  infoMode : paramMode s.info ≠ 3
  quiet : s.phase ≠ .idle → s.done = false ∧ s.err = false ∧ s.outLen = 0 ∧ s.info = 0
  latches : s.phase ≠ .idle →
    s.lOp = s.op ∧ s.lParam = s.param ∧ s.lAlign = s.align ∧ s.lInLen = s.inLen
  resetIdle : s.rst = true → s.phase = .idle

/-- The invariant of the engine's working registers (10_state.md R37 to R39, R43, 43_codec_a_rle.md R236, R250,
44_codec_b_commands.md R270, R302). -/
structure State.WorkInv (s : State) : Prop where
  bitIndex : s.work.rc.bit ≤ 7
  fresh : s.phase = .dispatch ∨ s.phase = .aHdr → s.work = Work.init
  widthOk : s.phase.inStreamA = true → 1 ≤ s.work.width ∧ s.work.width ≤ 15
  planeOpen : s.phase = .aPacket → s.work.seq.length < s.planeSize
  planeFull : s.phase = .aPad → s.work.second = true ∧ s.work.seq.length = s.planeSize
  firstFull : s.phase = .aMode ∨ (s.phase.inStreamA = true ∧ s.work.second = true) →
    s.work.firstSeq.length = s.planeSize
  modeOk : s.phase.inStreamA = true → s.work.mode ≤ 2
  copyLen : s.phase = .bPayload → 1 ≤ s.work.len ∧ s.work.len ≤ Config.maxLen
  outFits : s.phase.inStreamB = true → s.work.out.length ≤ s.cfg.bufSize
  lengthOk : s.phase = .aHdr ∨ s.phase.inStreamA = true ∨ s.phase.inStreamB = true →
    s.lInLen.toNat ≤ s.cfg.bufSize

/-- The machine's invariant. The parameters meet the constraints of 00_scope.md R10. -/
structure State.Inv (s : State) : Prop where
  cfgLegal : s.cfg.legal
  buffers : s.BufferInv
  registers : s.RegisterInv
  working : s.WorkInv

/-- The engine is at the start of an operation and nothing more comes from outside. -/
def State.Started (s : State) : Prop :=
  s.phase = .dispatch ∧ s.events = [] ∧ s.rst = false

/-- `k` engine moves lead from `s` to a completed operation `t` (40_operations.md R134). -/
def CompletesTo (s : State) (k : Nat) (t : State) : Prop :=
  Sys2Proof.core.run k s = .next t ∧ t.phase = .idle ∧ t.done = true

/-- The host sees a success with these bytes and this INFO (40_operations.md R134). -/
def State.Reports (t : State) (bytes : List Byte) (info : BitVec 7) : Prop :=
  t.err = false ∧ t.errCode = 0 ∧ t.errClass = 0 ∧ t.outLen.toNat = bytes.length ∧ t.info = info ∧
    ∀ a, a < bytes.length → t.readOut a = bytes.getD a 0

/-- The host sees this error (40_operations.md R134, 60_exceptions.md R374). -/
def State.ReportsError (t : State) (e : Err) : Prop :=
  t.err = true ∧ t.errCode = e.code ∧ t.errClass = e.cls ∧ t.outLen = 0 ∧ t.info = 0

/-! ### Candidates of the matcher -/

/-- The condition of 45_codec_b_matcher.md R323 on `j` for a command at `i`. -/
def Body.Covers (data : List Byte) (i : Nat) (body : Body) (j : Nat) : Prop :=
  match body with
  | .lit => False
  | .zero => data.getD (i + j) 0 = 0
  | .iter b => data.getD (i + j) 0 = b
  | .alt a b => data.getD (i + j) 0 = if j % 2 = 0 then a else b
  | .copy .rep p => data.getD (p + j) 0 = data.getD (i + j) 0
  | .copy .flip p => rev8 (data.getD (p + j) 0) = data.getD (i + j) 0
  | .copy .reverse p => j ≤ p ∧ data.getD (p - j) 0 = data.getD (i + j) 0

/-- Whether a command is considered at `i`, with its payload, window and reach (45_codec_b_matcher.md R322, R323, R325). -/
def Body.Offered (P : Params) (data : List Byte) (i : Nat) (body : Body) : Prop :=
  match body with
  | .lit => False
  | .zero => True
  | .iter b => b = data.getD i 0
  | .alt a b => 2 ≤ data.length - i ∧ a = data.getD i 0 ∧ b = data.getD (i + 1) 0
  | .copy _ p => p < i ∧ i - p ≤ P.scanWindow ∧ (i - p ≤ 127 ∨ p ≤ 0x7FFF)

/-- `c` is a candidate at `i`: considered there, and of the largest length up to min(1024, n − i) whose bytes all meet the
condition (45_codec_b_matcher.md R323). -/
structure IsCandidate (P : Params) (data : List Byte) (i : Nat) (c : Cmd) : Prop where
  atPos : c.pos = i
  offered : c.body.Offered P data i
  nonempty : 1 ≤ c.len
  room : c.len ≤ 1024 ∧ i + c.len ≤ data.length
  covers : ∀ j, j < c.len → c.body.Covers data i j
  longest : c.len = 1024 ∨ i + c.len = data.length ∨ ¬ c.body.Covers data i c.len

/-- The place of a kind in the order of 45_codec_b_matcher.md R324. A literal is no candidate. -/
def Body.place : Body → Nat
  | .zero => 1
  | .iter _ => 2
  | .alt _ _ => 3
  | .copy .rep _ => 4
  | .copy .flip _ => 5
  | .copy .reverse _ => 6
  | .lit => 7

/-- The source of a copy. -/
def Body.source : Body → Nat
  | .copy _ p => p
  | _ => 0

/-- `c` comes before `d` in the order of 45_codec_b_matcher.md R324: by kind, and copies of one kind with `p` descending. -/
def Earlier (c d : Cmd) : Prop :=
  c.body.place < d.body.place ∨ c.body.place = d.body.place ∧ d.body.source < c.body.source

end Sys2Proof.Machine
end

