-- ==== Sys2Proof/Certificates/Slice0/Obligations.lean ====
section
/-! DEFINITION. The statements for the provers (OBLIGATIONS.json lists them). Where a statement concludes with `s.raise e`,
what that leaves in the engine's working registers is the model's choice (log 15). -/

open Sys2Proof Sys2Proof.Machine

/-! ### Encoding -/

/-- Decoding an encoded well-formed row gives the row and leaves what follows it, for every row and every operand its
encoding admits (30_encoding.md R90 to R105). Padding takes all it is given, so nothing may follow it. -/
def Obligations.DecodeUndoesEncode : Prop :=
  ∀ (P : Params) (i : Instr) (rest : List Bool),
    i.wf P → (i.space = .aPad → rest = []) → decode P i.space (encode i ++ rest) = .ok (i, rest)

/-- Whatever decodes is the encoding of the well-formed row it decodes to: no bit is dropped and each code word has one
meaning (30_encoding.md R90 to R106). -/
def Obligations.EncodeUndoesDecode : Prop :=
  ∀ (P : Params) (sp : Space) (bits : List Bool) (i : Instr) (rest : List Bool),
    sp ≠ .aPad → decode P sp bits = .ok (i, rest) →
      i.space = sp ∧ i.wf P ∧ bits = encode i ++ rest

/-- `DecodeHeader` on any bytes (44_codec_b_commands.md R272): the end of input is TRUNCATED_STREAM, 0xFF is END, a short
header is one byte, a long header needs its second byte, and the bytes 0xFC to 0xFE are INVALID_COMMAND whatever follows
them, the end of input too. -/
def Obligations.HeaderBytesDecode : Prop :=
  ∀ P : Params, let header := fun bs : List Byte => decode P .bHeader (bitsOfBytes bs)
  header [] = .error .truncatedStream ∧
    (∀ (b0 : Byte) (bs : List Byte),
      (b0.toNat = 0xFF → header (b0 :: bs) = .ok (.stop, bitsOfBytes bs)) ∧
      (b0.toNat < 0xE0 →
        header (b0 :: bs) = .ok (shortRow (b0.toNat / 32) (b0.toNat % 32 + 1), bitsOfBytes bs)) ∧
      (0xE0 ≤ b0.toNat → b0.toNat < 0xFC →
        header [b0] = .error .truncatedStream ∧
        ∀ b1 : Byte, header (b0 :: b1 :: bs) = .ok
          (longRow (b0.toNat / 4 % 8) (b0.toNat % 4 * 256 + b1.toNat + 1), bitsOfBytes bs)) ∧
      (0xFC ≤ b0.toNat → b0.toNat < 0xFF → ∃ i, header (b0 :: bs) = .ok (i, bitsOfBytes bs) ∧
        ∀ s : State, exec i s = .next (s.raise .invalidCommand))) ∧
    ∀ s : State, exec .longReservedFC s = .next (s.raise .invalidCommand) ∧
      exec .longReservedFD s = .next (s.raise .invalidCommand) ∧
      exec .longReservedFE s = .next (s.raise .invalidCommand)

/-- The mode field is written `0`, `10`, `11` and read back as it was written, and reading it fails only where the input
ends (43_codec_a_rle.md R240). -/
def Obligations.ModeFieldReadsBack : Prop :=
  encode (modeToken 0) = [false] ∧ encode (modeToken 1) = [true, false] ∧
    encode (modeToken 2) = [true, true] ∧
    (∀ (P : Params) (m : Nat) (rest : List Bool), m ≤ 2 →
      readMode (encode (modeToken m) ++ rest) = .ok (m, rest) ∧
      decode P .aMode (encode (modeToken m) ++ rest) = .ok (modeToken m, rest)) ∧
    ∀ (bits : List Bool) (e : Err), readMode bits = .error e → e = .truncatedStream

/-- `rev8` reverses the order of the bits, undoes itself, and is what the table of reversed nibbles gives
(44_codec_b_commands.md R274). -/
def Obligations.ByteReversalMatchesItsTable : Prop :=
  ∀ b : Byte, (∀ i, i < 8 → (rev8 b).getLsbD i = b.getLsbD (7 - i)) ∧ rev8 (rev8 b) = b ∧
    (rev8 b).toNat =
      16 * (rev4Table.getD (b.toNat % 16) 0).toNat + (rev4Table.getD (b.toNat / 16) 0).toNat

/-- A few words written out from the encodings decode to what they stand for (30_encoding.md R90 to R104). -/
def Obligations.WrittenWordsDecode : Prop :=
  decode Config.hw .bHeader (bitsOfBytes [0xEC, 0x63]) = .ok (.zeroLong 100, []) ∧
    decode Config.hw .bHeader (bitsOfBytes [0x84]) = .ok (.rep 5, []) ∧
    decode Config.hw .bOffset (bitsOfBytes [0x83]) = .ok (.offRel 3, []) ∧
    decode Config.hw .bOffset (bitsOfBytes [0x00, 0x05]) = .ok (.offAbs 5, []) ∧
    decode Config.hw .aRle [true, true, true, false, true, false, true, false] = .ok (.aRun 3 10, []) ∧
    decode Config.hw .aMode [true, true] = .ok (.aM2, [])

/-! ### Reset, invariant, step -/

/-- What reset leaves in the registers (10_state.md R43, 70_reset_and_hazards.md R402). -/
def Obligations.ResetLeavesTheStatedValues : Prop :=
  State.reset.readReg .ctrl = 0 ∧ State.reset.readReg .status = 0 ∧ State.reset.readReg .op = 0 ∧
    State.reset.readReg .param = 0 ∧ State.reset.readReg .align = 1 ∧
    State.reset.readReg .inLen = 0 ∧ State.reset.readReg .outLen = 0 ∧
    State.reset.readReg .info = 0 ∧ State.reset.phase = .idle ∧ State.reset.irq = false

/-- The state after reset meets the invariant. -/
def Obligations.ResetMeetsTheInvariant : Prop :=
  State.reset.Inv

/-- Every step keeps the invariant and the parameters: the buffers' canonical form and their draws, the error fields, the
quiet registers and equal latches of a busy block, the sizes in the decoders (00_scope.md R10, 10_state.md R23, R28, R29,
R31, R32, R36, 43_codec_a_rle.md R236). -/
def Obligations.StepKeepsTheInvariant : Prop :=
  ∀ s t : State, s.Inv → step s = .next t → t.Inv ∧ t.cfg = s.cfg

/-- Asserting the reset input gives every register its reset value and aborts a running operation: DONE stays 0 and
nothing is reported (70_reset_and_hazards.md R400, R401). Both buffers take new unspecified values. No host access is
served until the input is released, which changes nothing else, and then a host read of a register sees its reset value
(the buffers' values are log 1's, the refusal and the moment of the reset are log 8's). -/
def Obligations.ResetInputAbortsAndReleases : Prop :=
  ∀ s : State, ∃ t, hostStep (.reset true) s = .next t ∧
    t.phase = .idle ∧ t.done = false ∧ t.irq = false ∧
    (∀ r : Reg, t.readReg r = State.reset.readReg r) ∧
    (∀ a, t.readIn a = Config.freeByte s.draws a) ∧
    (∀ a, t.readOut a = Config.freeByte (s.draws + 1) a) ∧
    (∀ a, hostStep (.access a) t = .refused .hostAccessDuringReset) ∧
    (∀ u : State, hostStep (.reset false) u = .next { u with rst := false }) ∧
    ∀ off r, regAt off = some r →
      hostStep (.access (.read (BitVec.ofNat 18 off) 4)) { t with rst := false } =
        .next { t with rst := false, rdata := State.reset.readReg r }

/-- The engine's move runs the row that the bits at its cursor decode to, with the cursor past it: the operation code
while an operation starts, a header or an offset of Codec B, a token of Codec A (10_state.md R34;
that one row is one move is the model's, log 7). -/
def Obligations.EngineRunsTheDecodedRow : Prop :=
  ∀ (s : State) (i : Instr) (rest : List Bool), s.events = [] →
    (s.phase = .dispatch → step s = exec (decodeOp s.lOp.toNat) s) ∧
    (∀ sp, (s.phase = .bScan ∧ sp = Space.bHeader) ∨ (s.phase = .bPayload ∧ sp = Space.bOffset) →
      decode s.cfg sp s.windowB = .ok (i, rest) →
        step s = exec i { s with work :=
          { s.work with rp := s.work.rp + (s.windowB.length - rest.length) / 8 } }) ∧
    (∀ sp, (s.phase = .aHdr ∧ sp = Space.aHdr) ∨ (s.phase = .aOrd ∧ sp = Space.aOrd) ∨
        (s.phase = .aStart ∧ sp = Space.aStart) ∨ (s.phase = .aMode ∧ sp = Space.aMode) ∨
        (s.phase = .aPacket ∧ sp = s.work.packet.space) →
      decode s.cfg sp s.windowA = .ok (i, rest) →
        step s = exec i { s with work :=
          { s.work with rc := s.work.rc.advance (s.windowA.length - rest.length) } }) ∧
    (s.phase = .aPad →
      step s = exec (.aPad s.windowPad.length) { s with work :=
        { s.work with rc := s.work.rc.advance s.windowPad.length } })

/-- Where the bits at the cursor do not decode, the engine completes with the error that names why
(41_bit_cursor.md R171, 43_codec_a_rle.md R222, 44_codec_b_commands.md R291). That the cursor stays before the bits that
failed, and the other working registers as they stood, is the model's choice (log 15). -/
def Obligations.EngineReportsFetchErrors : Prop :=
  ∀ (s : State) (e : Err), s.events = [] →
    (∀ sp, (s.phase = .bScan ∧ sp = Space.bHeader) ∨ (s.phase = .bPayload ∧ sp = Space.bOffset) →
      decode s.cfg sp s.windowB = .error e → step s = .next (s.raise e)) ∧
    (∀ sp, (s.phase = .aHdr ∧ sp = Space.aHdr) ∨ (s.phase = .aOrd ∧ sp = Space.aOrd) ∨
        (s.phase = .aStart ∧ sp = Space.aStart) ∨ (s.phase = .aMode ∧ sp = Space.aMode) ∨
        (s.phase = .aPacket ∧ sp = s.work.packet.space) →
      decode s.cfg sp s.windowA = .error e → step s = .next (s.raise e))

/-- Who moves: with nothing waiting outside the engine does, and an IDLE engine keeps every value; an IDLE block, or one in
reset, serves the waiting event; while BUSY the free choice decides (60_exceptions.md R390; the choice is the model's,
log 4). -/
def Obligations.HostAndEngineTakeTurns : Prop :=
  (∀ s : State, s.events = [] → step s = engineStep s ∧ (s.phase = .idle → step s = .next s)) ∧
    (∀ (s : State) (e : HostEvent) (rest : List HostEvent), s.events = e :: rest →
      (s.phase = .idle ∨ s.rst = true →
        step s = hostStep e { s with events := rest, turn := s.turn + 1 }) ∧
      (s.phase ≠ .idle → s.rst = false →
        step s = if Config.hostFirst s.turn then hostStep e { s with events := rest, turn := s.turn + 1 }
          else engineStep { s with turn := s.turn + 1 }))

/-- No step faults, and the only refusal is a host access while the reset input is asserted
(60_exceptions.md R370, R376, 70_reset_and_hazards.md R400). -/
def Obligations.OnlyResetAccessIsRefused : Prop :=
  ∀ s : State, (∃ t, step s = .next t) ∨
    (step s = .refused .hostAccessDuringReset ∧ s.rst = true ∧
      ∃ a rest, s.events = .access a :: rest)

/-! ### Codec B commands -/

/-- LIT appends its L payload bytes, in both header forms (44_codec_b_commands.md R293). -/
def Obligations.LitAppendsItsPayload : Prop :=
  ∀ (len : Nat) (s : State), s.work.rp + len ≤ s.lInLen.toNat →
    s.work.out.length + len ≤ s.cfg.bufSize →
    ∃ t, exec (.lit len) s = .next t ∧ exec (.litLong len) s = .next t ∧
      t = { s with phase := .bScan, work := { s.work with
        rp := s.work.rp + len,
        out := s.work.out ++ (List.range len).map fun j => s.readIn (s.work.rp + j) } }

/-- ITER appends its payload byte L times, in both header forms (44_codec_b_commands.md R294). -/
def Obligations.IterRepeatsOneByte : Prop :=
  ∀ (len : Nat) (s : State), s.work.rp + 1 ≤ s.lInLen.toNat →
    s.work.out.length + len ≤ s.cfg.bufSize →
    ∃ t, exec (.iter len) s = .next t ∧ exec (.iterLong len) s = .next t ∧
      t = { s with phase := .bScan, work := { s.work with
        rp := s.work.rp + 1,
        out := s.work.out ++ List.replicate len (s.readIn s.work.rp) } }

/-- ALT appends its two payload bytes alternately, L bytes in all, the first one first, in both header forms
(44_codec_b_commands.md R295). -/
def Obligations.AltAlternatesTwoBytes : Prop :=
  ∀ (len : Nat) (s : State), s.work.rp + 2 ≤ s.lInLen.toNat →
    s.work.out.length + len ≤ s.cfg.bufSize →
    ∃ o, exec (.alt len) s = .next { s with phase := .bScan, work := { s.work with
          rp := s.work.rp + 2, out := s.work.out ++ o } } ∧
      exec (.altLong len) s = exec (.alt len) s ∧
      o.length = len ∧ ∀ j, j < len → o.getD j 0 = s.readIn (s.work.rp + j % 2)

/-- ZERO appends L zero bytes and reads no payload, in both header forms (44_codec_b_commands.md R296). -/
def Obligations.ZeroAppendsZeroBytes : Prop :=
  ∀ (len : Nat) (s : State), s.work.out.length + len ≤ s.cfg.bufSize →
    ∃ t, exec (.zero len) s = .next t ∧ exec (.zeroLong len) s = .next t ∧
      t = { s with phase := .bScan, work := { s.work with
        out := s.work.out ++ List.replicate len 0 } }

/-- A REPEAT, FLIP or REVERSE header, in both forms, keeps its kind and length and goes to the PAYLOAD state for its
offset; nothing is appended yet (44_codec_b_commands.md R290, log 7). -/
def Obligations.CopyHeaderAwaitsItsOffset : Prop :=
  ∀ (len : Nat) (s : State),
    let wait := fun kind : CopyKind =>
      { s with phase := .bPayload, work := { s.work with copy := kind, len := len } }
    exec (.rep len) s = .next (wait .rep) ∧ exec (.repLong len) s = .next (wait .rep) ∧
      exec (.flip len) s = .next (wait .flip) ∧ exec (.flipLong len) s = .next (wait .flip) ∧
      exec (.reverse len) s = .next (wait .reverse) ∧
      exec (.reverseLong len) s = .next (wait .reverse)

/-- A REPEAT from `src` appends L bytes, each read from the output built so far, its own bytes included, with the source
named by distance or by position (44_codec_b_commands.md R273, R297, R300). -/
def Obligations.RepeatCopiesForward : Prop :=
  ∀ (s : State) (src : Nat), s.work.copy = .rep → src < s.work.out.length →
    s.work.out.length + s.work.len ≤ s.cfg.bufSize →
    ∃ o, exec (.offAbs src) s =
          .next { s with phase := .bScan, work := { s.work with out := o } } ∧
      exec (.offRel (s.work.out.length - src)) s = exec (.offAbs src) s ∧
      o.length = s.work.out.length + s.work.len ∧
      (∀ k, k < s.work.out.length → o.getD k 0 = s.work.out.getD k 0) ∧
      ∀ j, j < s.work.len → o.getD (s.work.out.length + j) 0 = o.getD (src + j) 0

/-- A FLIP from `src` appends L bytes, each the bit reversal of a byte of the output built so far, its own bytes included
(44_codec_b_commands.md R273, R274, R298, R300). -/
def Obligations.FlipCopiesReversedBits : Prop :=
  ∀ (s : State) (src : Nat), s.work.copy = .flip → src < s.work.out.length →
    s.work.out.length + s.work.len ≤ s.cfg.bufSize →
    ∃ o, exec (.offAbs src) s =
          .next { s with phase := .bScan, work := { s.work with out := o } } ∧
      exec (.offRel (s.work.out.length - src)) s = exec (.offAbs src) s ∧
      o.length = s.work.out.length + s.work.len ∧
      (∀ k, k < s.work.out.length → o.getD k 0 = s.work.out.getD k 0) ∧
      ∀ j i, j < s.work.len → i < 8 →
        (o.getD (s.work.out.length + j) 0).getLsbD i = (o.getD (src + j) 0).getLsbD (7 - i)

/-- A REVERSE from `src` appends the L bytes at `src`, `src − 1` and so on down (44_codec_b_commands.md R273, R299). -/
def Obligations.ReverseCopiesBackward : Prop :=
  ∀ (s : State) (src : Nat), s.work.copy = .reverse → src < s.work.out.length →
    s.work.len ≤ src + 1 → s.work.out.length + s.work.len ≤ s.cfg.bufSize →
    ∃ o, exec (.offAbs src) s =
          .next { s with phase := .bScan, work := { s.work with out := s.work.out ++ o } } ∧
      exec (.offRel (s.work.out.length - src)) s = exec (.offAbs src) s ∧
      o.length = s.work.len ∧
      ∀ j, j < s.work.len → o.getD j 0 = s.work.out.getD (src - j) 0

/-- A copy whose source lies outside the output built so far ends the operation with INVALID_OFFSET: distance 0, a
distance past the start, a position at or past the end, and a REVERSE that would read before the start. Every other source
passes the check (44_codec_b_commands.md R301). -/
def Obligations.OffsetOutsideOutputRaises : Prop :=
  (∀ (kind : CopyKind) (src : Int) (len n : Nat), offsetOk kind src len n = true ↔
      (0 ≤ src ∧ src < n) ∧ ¬ (kind = .reverse ∧ src - ((len : Int) - 1) < 0)) ∧
  ∀ s : State,
    (∀ d, d = 0 ∨ s.work.out.length < d → exec (.offRel d) s = .next (s.raise .invalidOffset)) ∧
    (∀ src, s.work.out.length ≤ src → exec (.offAbs src) s = .next (s.raise .invalidOffset)) ∧
    (s.work.copy = .reverse →
      (∀ src, src + 1 < s.work.len → exec (.offAbs src) s = .next (s.raise .invalidOffset)) ∧
      (∀ d, d ≤ s.work.out.length → s.work.out.length - d + 1 < s.work.len →
        exec (.offRel d) s = .next (s.raise .invalidOffset)))

/-- A command that would take the output past P_BUF_SIZE ends the operation with OUTPUT_OVERFLOW, once its payload is
there and its offset is in range (44_codec_b_commands.md R302, R303). -/
def Obligations.OutputPastBufferRaises : Prop :=
  ∀ (s : State) (len src : Nat), s.cfg.bufSize < s.work.out.length + len →
    let overflows := fun i : Instr => ∃ t, exec i s = .next t ∧ t.phase = .idle ∧ t.done = true ∧
      t.ReportsError .outputOverflow
    (overflows (.zero len) ∧ overflows (.zeroLong len)) ∧
    (s.work.rp + len ≤ s.lInLen.toNat → overflows (.lit len) ∧ overflows (.litLong len)) ∧
    (s.work.rp + 1 ≤ s.lInLen.toNat → overflows (.iter len) ∧ overflows (.iterLong len)) ∧
    (s.work.rp + 2 ≤ s.lInLen.toNat → overflows (.alt len) ∧ overflows (.altLong len)) ∧
    (s.work.len = len → src < s.work.out.length → (s.work.copy = .reverse → len ≤ src + 1) →
      overflows (.offAbs src) ∧ overflows (.offRel (s.work.out.length - src)))

/-- A command whose payload runs past the input ends the operation with TRUNCATED_STREAM, before any other check
(44_codec_b_commands.md R291, R293 to R295, R303). That `rp` stays right after the header, and the other working registers
as they stood, is the model's choice (log 15). -/
def Obligations.MissingPayloadRaises : Prop :=
  ∀ (s : State) (len : Nat),
    (1 ≤ len → s.lInLen.toNat < s.work.rp + len →
      exec (.lit len) s = .next (s.raise .truncatedStream) ∧
      exec (.litLong len) s = .next (s.raise .truncatedStream)) ∧
    (s.lInLen.toNat < s.work.rp + 1 →
      exec (.iter len) s = .next (s.raise .truncatedStream) ∧
      exec (.iterLong len) s = .next (s.raise .truncatedStream)) ∧
    (s.lInLen.toNat < s.work.rp + 2 →
      exec (.alt len) s = .next (s.raise .truncatedStream) ∧
      exec (.altLong len) s = .next (s.raise .truncatedStream))

/-- END completes the operation with the output built so far and INFO 0 (44_codec_b_commands.md R290, 40_operations.md
R134, R160). -/
def Obligations.EndReportsTheOutput : Prop :=
  ∀ s : State, s.cfg.legal → s.work.out.length ≤ s.cfg.bufSize →
    ∃ t, exec .stop s = .next t ∧ t.phase = .idle ∧ t.done = true ∧ t.Reports s.work.out 0

/-- A copy command with a short header and a relative offset, as its two bytes stand in the stream, appends its L bytes in
two moves of the engine and leaves the decoder scanning after them (44_codec_b_commands.md R273, R290, R297 to R299;
two moves by log 7). -/
def Obligations.CopyCommandRunsFromTheStream : Prop :=
  ∀ (s : State) (kind len d : Nat), s.events = [] → s.phase = .bScan →
    s.work.rp + 2 ≤ s.lInLen.toNat → 4 ≤ kind → kind ≤ 6 → 1 ≤ len → len ≤ 32 → 1 ≤ d → d ≤ 127 →
    (s.readIn s.work.rp).toNat = 32 * kind + (len - 1) →
    (s.readIn (s.work.rp + 1)).toNat = 0x80 + d →
    d ≤ s.work.out.length → (kind = 6 → len ≤ s.work.out.length - d + 1) →
    s.work.out.length + len ≤ s.cfg.bufSize →
    Sys2Proof.core.run 2 s = .next { s with phase := .bScan, work := { s.work with
      rp := s.work.rp + 2, copy := copyKindOf kind, len := len,
      out := copyBytes (copyKindOf kind) len (s.work.out.length - d) s.work.out } }

/-! ### Frames -/

/-- A row that does not complete its operation changes the engine's own registers only: no host register or flag, no
latch, no byte of IN_BUF or OUT_BUF (10_state.md R42, 40_operations.md R134). -/
def Obligations.RunningRowsTouchOnlyTheEngine : Prop :=
  ∀ (i : Instr) (s t : State), exec i s = .next t → t.phase ≠ .idle →
    t = { s with work := t.work, phase := t.phase } ∧
      (∀ a, t.readIn a = s.readIn a) ∧ (∀ a, t.readOut a = s.readOut a)

/-- A row that completes its operation writes, of what the host can see, what 40_operations.md R134 lists and nothing else:
OUT_BUF, OUT_LEN, INFO and the STATUS fields but PROTO. Every byte of IN_BUF stays. What the working registers hold
after it is left open here (93_implementation_defined.md U22). That the latches stay is the model's choice (log 15), and so is
that OUT_BUF's unlisted bytes take the next draw and the counter of draws moves on by one (log 1). -/
def Obligations.CompletionWritesOnlyTheResult : Prop :=
  ∀ (i : Instr) (s t : State), exec i s = .next t → t.phase = .idle →
    t = { s with
        work := t.work, phase := .idle, done := true, err := t.err, errCode := t.errCode,
        errClass := t.errClass, outLen := t.outLen, info := t.info, outBuf := t.outBuf,
        outDraw := s.draws, draws := s.draws + 1 } ∧
      ∀ a, t.readIn a = s.readIn a

/-! ### Codec A tokens -/

/-- The header's checks: unequal nibbles give NON_SQUARE_IMAGE, equal zeros give INVALID_IMAGE_SIZE, and a square size is
kept for the order bit to follow (43_codec_a_rle.md R250). -/
def Obligations.HeaderTokenChecksTheSize : Prop :=
  ∀ (s : State) (w h : Nat),
    (w ≠ h → exec (.aHdr w h) s = .next (s.raise .nonSquareImage)) ∧
    exec (.aHdr 0 0) s = .next (s.raise .invalidImageSize) ∧
    (1 ≤ w → exec (.aHdr w w) s =
      .next { s with phase := .aOrd, work := { s.work with width := w } })

/-- What the order bit, the start bits, the terminator and the mode field set (43_codec_a_rle.md R236, R240, R250,
30_encoding.md R93, R94). -/
def Obligations.StreamMarkersSetTheDecoder : Prop :=
  ∀ (s : State) (order : Bool),
    exec (.aOrd order) s = .next { s with phase := .aStart, work := { s.work with order := order } } ∧
    exec .aS0 s = .next { s with phase := .aPacket, work := { s.work with seq := [], packet := .rle } } ∧
    exec .aS1 s = .next { s with phase := .aPacket, work := { s.work with seq := [], packet := .data } } ∧
    exec .aT s = .next { s with phase := .aPacket, work := { s.work with packet := .rle } } ∧
    exec .aM0 s = .next { s with phase := .aStart, work := { s.work with mode := 0, second := true } } ∧
    exec .aM1 s = .next { s with phase := .aStart, work := { s.work with mode := 1, second := true } } ∧
    exec .aM2 s = .next { s with phase := .aStart, work := { s.work with mode := 2, second := true } }

/-- A data pair adds itself, an RLE packet of class `w` and offset `v` adds `2^(w+1) − 1 + v` zero pairs. The packet goes on
with data while the plane of 32·w² pairs is not full, a full first plane is kept and the mode field is next, a full second
plane is followed by the padding, and a run past the plane's end raises DATA_OVERFLOW (43_codec_a_rle.md R222, R236,
R250). -/
def Obligations.PacketsExtendThePlane : Prop :=
  ∀ (s : State) (pairs : List Pair) (i : Instr),
    (∃ p, i = .aP p ∧ pairs = [p]) ∨
      (∃ w v, i = .aRun w v ∧ pairs = List.replicate (2 ^ (w + 1) - 1 + v) 0) →
    let seq := s.work.seq ++ pairs
    let size := 32 * (s.work.width * s.work.width)
    (seq.length < size → exec i s =
      .next { s with phase := .aPacket, work := { s.work with seq := seq, packet := .data } }) ∧
    (seq.length = size → s.work.second = false → exec i s =
      .next { s with phase := .aMode, work := { s.work with seq := seq, firstSeq := seq } }) ∧
    (seq.length = size → s.work.second = true → exec i s =
      .next { s with phase := .aPad, work := { s.work with seq := seq } }) ∧
    (size < seq.length → (∃ w v, i = .aRun w v) → exec i s = .next (s.raise .dataOverflow))

/-- After the padding, whatever its length, A_DECOMPRESS completes with the rebuilt data and the header values it read
(30_encoding.md R98, 42_codec_a_planes.md R201, 40_operations.md R150). -/
def Obligations.PaddingEndsTheDecode : Prop :=
  ∀ (s : State) (n : Nat), s.cfg.legal → s.work.width ≤ 15 →
    ∃ t, exec (.aPad n) s = .next t ∧ t.phase = .idle ∧ t.done = true ∧
      t.Reports
        (reconstruct s.work.firstSeq s.work.seq s.work.width s.work.order s.work.mode).data
        (infoOf s.work.width s.work.order s.work.mode)

/-! ### Operations -/

/-- A_COMPRESS (40_operations.md R140): INVALID_WIDTH for width 0 or a length that is not 16·w², then INVALID_MODE for mode
3, else the packed stream of at most 5402 bytes with the parameters in INFO. -/
def Obligations.CompressReportsTheStream : Prop :=
  decodeOp 1 = .aCompress ∧ ∀ s : State, s.cfg.legal → s.lInLen.toNat ≤ s.cfg.bufSize →
    let w := paramWidth s.lParam
    let bytes := pack (aEncodeStream ((List.range s.lInLen.toNat).map s.readIn) w
      (paramSwap s.lParam) (paramMode s.lParam))
    (w = 0 ∨ s.lInLen.toNat ≠ 16 * (w * w) → exec .aCompress s = .next (s.raise .invalidWidth)) ∧
    (1 ≤ w → s.lInLen.toNat = 16 * (w * w) → paramMode s.lParam = 3 →
      exec .aCompress s = .next (s.raise .invalidMode)) ∧
    (1 ≤ w → s.lInLen.toNat = 16 * (w * w) → paramMode s.lParam ≠ 3 →
      bytes.length ≤ 5402 ∧ ∃ t, exec .aCompress s = .next t ∧ t.phase = .idle ∧ t.done = true ∧
        t.Reports bytes (infoOf w (paramSwap s.lParam) (paramMode s.lParam)))

/-- A_COMPRESS_AUTO (40_operations.md R145): width 0 means the inferred one. INVALID_WIDTH where the width is none or does
not fit the length, else a result no longer than any of the six, the first of the shortest ones, with its choice in
INFO. -/
def Obligations.AutoTakesTheFirstShortest : Prop :=
  decodeOp 2 = .aCompressAuto ∧ ∀ s : State, s.cfg.legal → s.lInLen.toNat ≤ s.cfg.bufSize →
    let w := if paramWidth s.lParam = 0 then inferWidth s.lInLen.toNat else paramWidth s.lParam
    let data := (List.range s.lInLen.toNat).map s.readIn
    let size := fun (swap : Bool) (mode : Nat) => (pack (aEncodeStream data w swap mode)).length
    (w = 0 ∨ s.lInLen.toNat ≠ 16 * (w * w) →
      exec .aCompressAuto s = .next (s.raise .invalidWidth)) ∧
    (1 ≤ w → s.lInLen.toNat = 16 * (w * w) →
      ∃ t swap mode, exec .aCompressAuto s = .next t ∧ t.phase = .idle ∧ t.done = true ∧ mode ≤ 2 ∧
        t.Reports (pack (aEncodeStream data w swap mode)) (infoOf w swap mode) ∧
        ∀ swap' mode', mode' ≤ 2 → size swap mode ≤ size swap' mode' ∧
          (size swap' mode' = size swap mode →
            3 * swap.toNat + mode ≤ 3 * swap'.toNat + mode'))

/-- `InferWidth` gives the one width in 1..15 whose data has the length, and 0 where there is none; A_COMPRESS_AUTO then
raises INVALID_WIDTH (40_operations.md R146,
"Inference from the length is the spec's reading"). -/
def Obligations.InferredWidthIsTheOnlyOne : Prop :=
  (∀ n w : Nat, 1 ≤ w → w ≤ 15 → (inferWidth n = w ↔ 16 * (w * w) = n)) ∧
    (∀ n : Nat, (∀ w, 1 ≤ w → w ≤ 15 → 16 * (w * w) ≠ n) → inferWidth n = 0) ∧
    (∀ s : State, s.lInLen.toNat ≤ s.cfg.bufSize → paramWidth s.lParam = 0 →
      inferWidth s.lInLen.toNat = 0 → exec .aCompressAuto s = .next (s.raise .invalidWidth))

/-- A decompressor starts at the beginning of its stream with fresh cursors and an empty output (40_operations.md R150,
R160, 41_bit_cursor.md R170, 44_codec_b_commands.md R291; that this is a move of its own is the model's, log 7). -/
def Obligations.DecompressorsStartTheirStream : Prop :=
  ∀ s : State, s.lInLen.toNat ≤ s.cfg.bufSize →
    ∃ a b, exec .aDecompress s = .next a ∧ exec .bDecompress s = .next b ∧
      a = { s with phase := .aHdr, work := a.work } ∧ a.work.rc = { byte := 0, bit := 7 } ∧
      a.work.second = false ∧
      b = { s with phase := .bScan, work := b.work } ∧ b.work.rp = 0 ∧ b.work.out = []

/-- B_COMPRESS (40_operations.md R155): alignment 0 is INVALID_ALIGNMENT. Otherwise it completes with the compressed stream
and INFO 0, or with OUTPUT_OVERFLOW where that is longer than P_BUF_SIZE. An empty input gives the sentinel alone. Any other
input gives its commands one after another, the sentinel, and fewer than ALIGN zero bytes that make the length a multiple of
ALIGN (10_state.md R26, 45_codec_b_matcher.md R345, R350). -/
def Obligations.BCompressReportsTheStream : Prop :=
  decodeOp 4 = .bCompress ∧ ∀ s : State, s.cfg.legal → s.lInLen.toNat ≤ s.cfg.bufSize →
    let data := (List.range s.lInLen.toNat).map s.readIn
    let r := bCompress s.cfg data s.lAlign.toNat
    (s.lAlign = 0 → exec .bCompress s = .next (s.raise .invalidAlignment)) ∧
    (s.lInLen = 0 → r = [0xFF]) ∧
    (s.lInLen ≠ 0 → s.lAlign ≠ 0 → r.length % s.lAlign.toNat = 0 ∧
      ∃ pad, pad < s.lAlign.toNat ∧
        r = (optimize (matchAll s.cfg data)).flatMap (encodeCmd data) ++ [0xFF] ++
          List.replicate pad 0) ∧
    (s.lAlign ≠ 0 → ∃ t, exec .bCompress s = .next t ∧ t.phase = .idle ∧ t.done = true ∧
      if r.length ≤ s.cfg.bufSize then t.Reports r 0 else t.ReportsError .outputOverflow)

/-- The reserved operation codes 0, 6 and 7 complete at once with INVALID_OPERATION. PARAM.MODE = 3 makes A_COMPRESS fail
with INVALID_MODE, and A_COMPRESS_AUTO ignores MODE (30_encoding.md R107). -/
def Obligations.ReservedOperationsFail : Prop :=
  ∀ s : State,
    (exec .opReserved0 s = .next (s.raise .invalidOperation) ∧
      exec .opReserved6 s = .next (s.raise .invalidOperation) ∧
      exec .opReserved7 s = .next (s.raise .invalidOperation)) ∧
    (s.phase = .dispatch → s.events = [] → s.lOp = 0 ∨ s.lOp = 6 ∨ s.lOp = 7 →
      step s = .next (s.raise .invalidOperation)) ∧
    (s.cfg.legal → 1 ≤ paramWidth s.lParam →
      s.lInLen.toNat = 16 * (paramWidth s.lParam * paramWidth s.lParam) → paramMode s.lParam = 3 →
      exec .aCompress s = .next (s.raise .invalidMode)) ∧
    ∀ p : BitVec 7, paramWidth p = paramWidth s.lParam →
      ∃ t, exec .aCompressAuto s = .next t ∧
        exec .aCompressAuto { s with lParam := p } = .next { t with lParam := p }

/-- What the engine does with the operation code (40_operations.md R133): INVALID_OPERATION unless it is 1 to 5, then
INVALID_LENGTH where the input is longer than P_BUF_SIZE, before any check of the operation's own, and else the operation
that the code selects. -/
def Obligations.CommonChecksComeFirst : Prop :=
  ∀ s : State, s.phase = .dispatch → s.events = [] →
    (¬ (1 ≤ s.lOp.toNat ∧ s.lOp.toNat ≤ 5) → step s = .next (s.raise .invalidOperation)) ∧
    (1 ≤ s.lOp.toNat → s.lOp.toNat ≤ 5 → s.cfg.bufSize < s.lInLen.toNat →
      step s = .next (s.raise .invalidLength)) ∧
    (s.lInLen.toNat ≤ s.cfg.bufSize →
      s.input = .ok ((List.range s.lInLen.toNat).map s.readIn) ∧
      (s.lOp = 1 → step s = exec .aCompress s) ∧ (s.lOp = 2 → step s = exec .aCompressAuto s) ∧
      (s.lOp = 3 → step s = exec .aDecompress s) ∧ (s.lOp = 4 → step s = exec .bCompress s) ∧
      (s.lOp = 5 → step s = exec .bDecompress s))

/-! ### Errors and the host interface -/

/-- Completion and error entry (40_operations.md R134, 60_exceptions.md R374). A result that fits goes to OUT_BUF with its
length and INFO, and the error fields become 0; one that is too long is OUTPUT_OVERFLOW. An error writes ERR, its code and
class, and 0 to OUT_LEN and INFO. Either way BUSY falls, DONE rises, `irq` rises when enabled, the rest of OUT_BUF becomes
unspecified, and every other field stays. That its free bytes are those of the next draw is the model's choice (log 1), and
that the working registers stay as they stood is too (log 15). -/
def Obligations.CompletionWritesItsFields : Prop :=
  ∀ (s : State) (bytes : List Byte) (info : BitVec 7) (e : Err),
    (s.cfg.legal → bytes.length ≤ s.cfg.bufSize → ∃ t, s.complete bytes info = t ∧
      t.Reports bytes info ∧ t.busy = false ∧ t.done = true ∧ t.irq = s.irqEn ∧
      (∀ a, bytes.length ≤ a → t.readOut a = Config.freeByte s.draws a) ∧
      t = { s with
        phase := .idle, done := true, err := false, errCode := 0, errClass := 0,
        outLen := t.outLen, info := info, outBuf := t.outBuf, outDraw := s.draws,
        draws := s.draws + 1 }) ∧
    (s.cfg.bufSize < bytes.length → s.complete bytes info = s.raise .outputOverflow) ∧
    ∃ t, s.raise e = t ∧
      t.ReportsError e ∧ t.busy = false ∧ t.done = true ∧ t.irq = s.irqEn ∧
      (∀ a, t.readOut a = Config.freeByte s.draws a) ∧
      t = { s with
        phase := .idle, done := true, err := true, errCode := e.code, errClass := e.cls,
        outLen := 0, info := 0, outBuf := [], outDraw := s.draws, draws := s.draws + 1 }

/-- A write of CTRL with START (40_operations.md R131): accepted while IDLE, when it latches the operands, erases the last
report and makes the block BUSY, and leaves PROTO as it is unless the same write also asks for CLEAR, which acts first
(10_state.md R22). The working registers are re-initialised, cursors at the start and sequences empty (10_state.md R37, R43).
`irq` falls with DONE (10_state.md R41). While BUSY it is ignored and sets PROTO. IRQ_EN is written either way. -/
def Obligations.StartLatchesTheOperands : Prop :=
  ∀ (s : State) (v : Word), s.rst = false → v.getLsbD 0 = true →
    (s.phase = .idle → ∃ (w : Work) (t : State), w.rc = { byte := 0, bit := 7 } ∧ w.wb = [] ∧
      w.rp = 0 ∧ w.out = [] ∧ hostStep (.access (.write 0 4 v)) s = .next t ∧ t.irq = false ∧
      t = { s with
        irqEn := v.getLsbD 2, lOp := s.op, lParam := s.param, lAlign := s.align,
        lInLen := s.inLen, done := false, err := false, errCode := 0, errClass := 0, outLen := 0,
        info := 0, proto := s.proto && !v.getLsbD 1, phase := .dispatch, work := w }) ∧
    (s.phase ≠ .idle → hostStep (.access (.write 0 4 v)) s =
      .next { s with irqEn := v.getLsbD 2, proto := true })

/-- A write of CTRL with CLEAR (40_operations.md R132): while IDLE it erases DONE, ERR, the codes and PROTO and nothing else,
OUT_LEN, INFO and OUT_BUF staying as they are, and `irq` falls with DONE (10_state.md R41). While BUSY it is ignored and does
not set PROTO. IRQ_EN is written either way, and a START in the same write acts after it (10_state.md R22). -/
def Obligations.ClearErasesTheReport : Prop :=
  ∀ (s : State) (v : Word), s.rst = false → v.getLsbD 1 = true →
    (v.getLsbD 0 = false → s.phase = .idle →
      ∃ t, hostStep (.access (.write 0 4 v)) s = .next t ∧ t.irq = false ∧
        t = { s with
          irqEn := v.getLsbD 2, done := false, err := false, errCode := 0, errClass := 0,
          proto := false }) ∧
    (v.getLsbD 0 = false → s.phase ≠ .idle → hostStep (.access (.write 0 4 v)) s =
      .next { s with irqEn := v.getLsbD 2 }) ∧
    (v.getLsbD 0 = true → s.phase = .idle → ∃ cleared : State,
      cleared = { s with
        irqEn := v.getLsbD 2, done := false, err := false, errCode := 0, errClass := 0,
        proto := false } ∧
      hostStep (.access (.write 0 4 v)) s = .next cleared.start)

/-- The words of the registers and the fields in them, for every state (10_state.md R22, R23, R25, R28, R29): CTRL reads IRQ_EN
in bit 2 and its actions as 0, STATUS its six fields, OUT_LEN and INFO their fields, and PARAM and INFO hold WIDTH, SWAP or
ORDER, and MODE in bits 3:0, 4 and 6:5. `irq` is always DONE and IRQ_EN (R41). A host read of a register, IDLE or BUSY,
returns its word and changes nothing. A word written to OP, PARAM, ALIGN or IN_LEN while IDLE reads back with its reserved
bits 0 and changes nothing else, and a write of CTRL with neither START nor CLEAR changes IRQ_EN and nothing else (R21, R22,
R24 to R27, R30, 20_memory.md R66; that the value read is left in `rdata` is log 3's). -/
def Obligations.RegistersReadAndWriteBack : Prop :=
  (∀ s : State,
    (s.readReg .ctrl).toNat = 4 * s.irqEn.toNat ∧
    (s.readReg .status).toNat = s.busy.toNat + 2 * s.done.toNat + 4 * s.err.toNat +
      8 * s.proto.toNat + 256 * s.errCode.toNat + 4096 * s.errClass.toNat ∧
    (s.readReg .outLen).toNat = s.outLen.toNat ∧ (s.readReg .info).toNat = s.info.toNat ∧
    s.irq = (s.done && s.irqEn)) ∧
  (∀ p : BitVec 7, paramWidth p ≤ 15 ∧ paramMode p ≤ 3 ∧
    p.toNat = paramWidth p + 16 * (paramSwap p).toNat + 32 * paramMode p ∧
    p = infoOf (paramWidth p) (paramSwap p) (paramMode p)) ∧
  ∀ (s : State) (v : Word), s.rst = false →
    (∀ x ∈ [((0x00 : Nat), Reg.ctrl), (0x04, .status), (0x08, .op), (0x0C, .param), (0x10, .align),
        (0x14, .inLen), (0x18, .outLen), (0x1C, .info)],
      hostStep (.access (.read (BitVec.ofNat 18 x.1) 4)) s =
        .next { s with rdata := s.readReg x.2 }) ∧
    (s.phase = .idle →
      (v.getLsbD 0 = false → v.getLsbD 1 = false →
        hostStep (.access (.write 0x00 4 v)) s = .next { s with irqEn := v.getLsbD 2 }) ∧
      (∃ t, hostStep (.access (.write 0x08 4 v)) s = .next t ∧
        t.readReg .op = v &&& 0x00000007 ∧ t = { s with op := t.op }) ∧
      (∃ t, hostStep (.access (.write 0x0C 4 v)) s = .next t ∧
        t.readReg .param = v &&& 0x0000007F ∧ t = { s with param := t.param }) ∧
      (∃ t, hostStep (.access (.write 0x10 4 v)) s = .next t ∧
        t.readReg .align = v &&& 0x0000FFFF ∧ t = { s with align := t.align }) ∧
      (∃ t, hostStep (.access (.write 0x14 4 v)) s = .next t ∧
        t.readReg .inLen = v &&& 0x0001FFFF ∧ t = { s with inLen := t.inLen }))

/-- While BUSY no host access disturbs the operation: it changes IRQ_EN, PROTO and what the host reads back, never an operand
register, a latch, the engine, IN_BUF or OUT_BUF (10_state.md R30, R36, 70_reset_and_hazards.md R410). -/
def Obligations.BusyBlockKeepsItsOperation : Prop :=
  ∀ (s : State) (a : HostAccess), s.phase ≠ .idle →
    ∃ irqEn proto rdata draws, s.hostAccess a =
      { s with irqEn := irqEn, proto := proto, rdata := rdata, draws := draws }

/-- The accesses the protocol forbids are ignored and set PROTO (10_state.md R30, 20_memory.md R64): a write to STATUS,
OUT_LEN, INFO or OUT_BUF; a write to an operand register or IN_BUF while BUSY; START while BUSY; the wrong width or alignment,
or an unmapped offset, which reads 0. CLEAR while BUSY does nothing. Reserved bits read 0. -/
def Obligations.ForbiddenAccessOnlySetsProto : Prop :=
  ∀ (s : State) (off : BitVec 18) (size : Nat) (v : Word), s.cfg.legal →
    (¬ (size = 4 ∧ off.toNat % 4 = 0 ∧ off.toNat < 0x20) →
      ¬ (size = 1 ∧ 0x10000 ≤ off.toNat ∧ off.toNat < 0x10000 + s.cfg.bufSize) →
      ¬ (size = 1 ∧ 0x20000 ≤ off.toNat ∧ off.toNat < 0x20000 + s.cfg.bufSize) →
      s.hostAccess (.read off size) = { s with proto := true, rdata := 0 } ∧
        s.hostAccess (.write off size v) = { s with proto := true }) ∧
    (off = 0x04 ∨ off = 0x18 ∨ off = 0x1C →
      s.hostAccess (.write off 4 v) = { s with proto := true }) ∧
    (0x20000 ≤ off.toNat → off.toNat < 0x20000 + s.cfg.bufSize →
      s.hostAccess (.write off 1 v) = { s with proto := true }) ∧
    (s.phase ≠ .idle → off = 0x08 ∨ off = 0x0C ∨ off = 0x10 ∨ off = 0x14 →
      s.hostAccess (.write off 4 v) = { s with proto := true }) ∧
    (s.phase ≠ .idle → 0x10000 ≤ off.toNat → off.toNat < 0x10000 + s.cfg.bufSize →
      s.hostAccess (.write off 1 v) = { s with proto := true }) ∧
    (s.phase ≠ .idle → s.hostAccess (.write 0 4 v) =
      { s with irqEn := v.getLsbD 2, proto := s.proto || v.getLsbD 0 }) ∧
    (s.readReg .ctrl &&& 0xFFFFFFFB = 0 ∧ s.readReg .status &&& 0xFFFFC0F0 = 0 ∧
      s.readReg .op &&& 0xFFFFFFF8 = 0 ∧ s.readReg .param &&& 0xFFFFFF80 = 0 ∧
      s.readReg .align &&& 0xFFFF0000 = 0 ∧ s.readReg .inLen &&& 0xFFFE0000 = 0 ∧
      s.readReg .outLen &&& 0xFFFE0000 = 0 ∧ s.readReg .info &&& 0xFFFFFF80 = 0)

/-- PROTO is sticky: a step that lowers it serves the assertion of the reset input, or a write of CTRL with CLEAR while IDLE
(10_state.md R23, 60_exceptions.md R376). -/
def Obligations.ProtoFallsOnlyByClearOrReset : Prop :=
  ∀ s t : State, step s = .next t → s.proto = true → t.proto = false →
    ∃ e rest, s.events = e :: rest ∧
      (e = .reset true ∨
        ∃ v : Word, e = .access (.write 0 4 v) ∧ v.getLsbD 1 = true ∧ s.phase = .idle)

/-- A byte the host writes to IN_BUF while IDLE is what it reads there, and every other byte stays. A host read of IN_BUF
returns the stored byte at any time, and one of OUT_BUF while IDLE returns the result byte that is there, both changing
nothing. While BUSY a read of OUT_BUF returns an unspecified byte and sets no PROTO (10_state.md R31, R32, 20_memory.md
R66, 93_implementation_defined.md U1; that each such read is a draw of its own is log 11's, `rdata` is log 3's). -/
def Obligations.BuffersReadAndWriteBack : Prop :=
  ∀ (s : State) (a : Nat) (v : Word), s.cfg.legal → s.rst = false → a < s.cfg.bufSize →
    let readIn := HostEvent.access (.read (BitVec.ofNat 18 (0x10000 + a)) 1)
    let readOut := HostEvent.access (.read (BitVec.ofNat 18 (0x20000 + a)) 1)
    hostStep readIn s = .next { s with rdata := (s.readIn a).setWidth 32 } ∧
    (s.phase = .idle → hostStep readOut s = .next { s with rdata := (s.readOut a).setWidth 32 }) ∧
    (s.phase ≠ .idle → hostStep readOut s = .next { s with
      rdata := (Config.freeByte s.draws a).setWidth 32, draws := s.draws + 1 }) ∧
    (s.phase = .idle →
      ∃ t, hostStep (.access (.write (BitVec.ofNat 18 (0x10000 + a)) 1 v)) s = .next t ∧
        t = { s with inBuf := t.inBuf } ∧
        t.readIn a = v.setWidth 8 ∧ (∀ x, x ≠ a → t.readIn x = s.readIn x) ∧
        hostStep readIn t = .next { t with rdata := v &&& 0xFF })

/-! ### Whole operations -/

/-- Every accepted START completes after finitely many moves of the engine, at most one for each input bit and three more
(70_reset_and_hazards.md R420, 40_operations.md R135; what one move does, and so the bound, is the model's, log 7). -/
def Obligations.EveryOperationCompletes : Prop :=
  ∀ s : State, s.Started → ∃ k t, k ≤ 8 * s.lInLen.toNat + 3 ∧ CompletesTo s k t

/-- Run token by token, A_DECOMPRESS reports what the stream decoder of 43_codec_a_rle.md R250 returns on the input: the
data, 16·w² bytes, and the header values, whatever bytes follow, or the error. An empty input is TRUNCATED_STREAM
(40_operations.md R150). -/
def Obligations.ADecompressComputesTheDecoder : Prop :=
  decodeOp 3 = .aDecompress ∧
    ∀ s : State, s.cfg.legal → s.Started → s.lOp = 3 → s.lInLen.toNat ≤ s.cfg.bufSize →
      let input := (List.range s.lInLen.toNat).map s.readIn
      ∃ k t, CompletesTo s k t ∧
        (s.lInLen = 0 → t.ReportsError .truncatedStream) ∧
        match aDecode s.cfg input with
        | .ok r => t.Reports r.data (infoOf r.width r.order r.mode) ∧
            r.data.length = 16 * (r.width * r.width) ∧
            ∀ more, aDecode s.cfg (input ++ more) = .ok r
        | .error e => t.ReportsError e

/-- Run command by command, B_DECOMPRESS reports what the decoder of 44_codec_b_commands.md R290 returns on the input, the
output with INFO 0, whatever bytes follow, or the error. The sentinel alone gives the empty output, and an empty input is
TRUNCATED_STREAM (40_operations.md R160). -/
def Obligations.BDecompressComputesTheDecoder : Prop :=
  decodeOp 5 = .bDecompress ∧ (∀ P, bDecode P [0xFF] = .ok []) ∧
    ∀ s : State, s.cfg.legal → s.Started → s.lOp = 5 → s.lInLen.toNat ≤ s.cfg.bufSize →
      let input := (List.range s.lInLen.toNat).map s.readIn
      ∃ k t, CompletesTo s k t ∧
        (s.lInLen = 0 → t.ReportsError .truncatedStream) ∧
        match bDecode s.cfg input with
        | .ok out => t.Reports out 0 ∧ ∀ more, bDecode s.cfg (input ++ more) = .ok out
        | .error e => t.ReportsError e

/-! ### The codecs -/

/-- Decoding an encoded plane gives the plane and reads exactly the bits that were written (43_codec_a_rle.md R238,
which the spec derives from its other rules). -/
def Obligations.DecodePlaneUndoesEncodePlane : Prop :=
  ∀ (P : Params) (seq : List Pair) (rest : List Bool), P.legal →
    1 ≤ seq.length → seq.length ≤ 7200 →
    decodePlane P seq.length ((encodePlane [] seq).wb ++ rest) = .ok (seq, rest)

/-- Codec A round trip, for every width, data, swap and mode (43_codec_a_rle.md R252, which the spec derives
from its other rules). -/
def Obligations.CodecARoundTrip : Prop :=
  ∀ (P : Params) (w : Nat) (data : List Byte) (swap : Bool) (mode : Nat), P.legal →
    1 ≤ w → w ≤ 15 → data.length = 16 * (w * w) → mode ≤ 2 →
    aDecode P (pack (aEncodeStream data w swap mode)) =
      .ok { data := data, width := w, order := swap, mode := mode }

/-- Codec B round trip, for every input that fits the buffer and every alignment (45_codec_b_matcher.md R352, which the spec
derives from its other rules). -/
def Obligations.CodecBRoundTrip : Prop :=
  ∀ (P : Params) (data : List Byte) (align : Nat), P.legal → data.length ≤ P.bufSize → 1 ≤ align →
    bDecode P (bCompress P data align) = .ok data

/-- The greedy matcher (45_codec_b_matcher.md R321 to R328). At each position some candidate is the best: none saves more, and
of those that save as much it comes first. A candidate saves its length less the bytes it is encoded in. The matcher takes the
best where it saves at least 0, else a literal run, which goes on to the end of the input, to P_LIT_CAP bytes, or to the first
position with a candidate that saves at least P_LIT_STOP. Its list is what it takes at each position in turn, over the whole
input. -/
def Obligations.MatcherTakesTheFirstBest : Prop :=
  ∀ (P : Params) (data : List Byte), P.legal →
    (∀ i, i < data.length → ∃ b, IsCandidate P data i b ∧
      (∀ c, IsCandidate P data i c →
        savings c = (c.len : Int) - (encodeCmd data c).length ∧
          (savings c < savings b ∨ savings c = savings b ∧ (c = b ∨ Earlier b c))) ∧
      (0 ≤ savings b → chooseAt P data i = b) ∧
      (savings b < 0 → ∃ len, chooseAt P data i = { body := .lit, len := len, pos := i } ∧
        1 ≤ len ∧ len ≤ P.litCap ∧ i + len ≤ data.length ∧
        (∀ k, 1 ≤ k → k < len → ∀ c, IsCandidate P data (i + k) c → savings c < P.litStop) ∧
        (i + len = data.length ∨ len = P.litCap ∨
          ∃ c, IsCandidate P data (i + len) c ∧ (P.litStop : Int) ≤ savings c))) ∧
    ((matchAll P data).map Cmd.len).sum = data.length ∧
    ∀ before c after, matchAll P data = before ++ c :: after →
      c = chooseAt P data (before.map Cmd.len).sum

/-- Running the optimizer twice on a matcher's list gives what running it once gives, and what it gives holds no literal
before a copy it could absorb and no two neighbours it could merge (45_codec_b_matcher.md R335,
which the spec derives from its other rules). -/
def Obligations.OptimizerIsIdempotent : Prop :=
  ∀ (P : Params) (data : List Byte), P.legal →
    let once := optimize (matchAll P data)
    optimize once = once ∧
      once.IsChain fun x c => absorbs x c = false ∧
        (sameKind x c = true → x.len = 1024 ∧ 1024 < x.len + c.len)

/-- With P_LIT_CAP = 1024 the optimizer returns the matcher's list unchanged (45_codec_b_matcher.md
R336, which the spec derives from its other rules). -/
def Obligations.OptimizerKeepsMatcherLists : Prop :=
  ∀ (P : Params) (data : List Byte), P.legal → P.litCap = 1024 →
    optimize (matchAll P data) = matchAll P data

/-- A Codec A stream of width `w` has at most 6N + 13 bits, N = 32·w², so its bytes fit 5402 (43_codec_a_rle.md R246,
which the spec derives from its other rules). -/
def Obligations.EncodedStreamSizeBound : Prop :=
  ∀ (data : List Byte) (w : Nat) (swap : Bool) (mode : Nat), 1 ≤ w →
    (aEncodeStream data w swap mode).length ≤ 6 * (32 * (w * w)) + 13 ∧
      (w ≤ 15 → (pack (aEncodeStream data w swap mode)).length ≤ 5402)

/-- The nibble tables compute the row delta and its inverse on rows of whole nibbles, and each undoes the other
(42_codec_a_planes.md R203, whose values the spec
derives from its other rules). -/
def Obligations.NibbleTablesComputeTheDelta : Prop :=
  (∀ (c : Bool) (row : List Bool), row.length % 4 = 0 →
    deltaByTable c row = deltaRow c row ∧ undeltaByTable c row = undeltaRow c row) ∧
  (∀ (c : Bool) (n : BitVec 4),
    (deltaTable c).getD n.toNat 0 = nibbleDelta c n ∧
      (undeltaTable c).getD n.toNat 0 = nibbleUndelta c n ∧
      nibbleUndelta c (nibbleDelta c n) = n)

/-- The decoder returns at the first 0xFF in header position, and a stream that decodes goes on decoding to the same output
with any bytes after it (44_codec_b_commands.md R304). -/
def Obligations.BytesAfterTheStreamAreIgnored : Prop :=
  (∀ (P : Params) (fuel : Nat) (out : List Byte) (bits : List Bool),
    bDecodeFrom P (fuel + 1) out (bitsOfByte 0xFF ++ bits) = .ok out) ∧
  ∀ (P : Params) (input more : List Byte) (out : List Byte),
    bDecode P input = .ok out → bDecode P (input ++ more) = .ok out
end

