-- ==== Sys2Proof/Laws/Bits.lean ====
section
/-! SUPPORT. What the bit-cursor functions do: `readBits` undoes `bitsOfNat`, `byteOfBits` undoes `bitsOfByte`. -/

namespace Sys2Proof

@[simp] theorem bitsOfNat_length (n v : Nat) : (bitsOfNat n v).length = n := by
  induction n with
  | zero => rfl
  | succ n ih => simp [bitsOfNat, ih]

@[simp] theorem bitsOfByte_length (b : Byte) : (bitsOfByte b).length = 8 :=
  bitsOfNat_length 8 _

@[simp] theorem bitsOfBytes_nil : bitsOfBytes [] = [] := rfl

@[simp] theorem bitsOfBytes_cons (b : Byte) (bs : List Byte) :
    bitsOfBytes (b :: bs) = bitsOfByte b ++ bitsOfBytes bs := rfl

@[simp] theorem bitsOfBytes_append (bs cs : List Byte) :
    bitsOfBytes (bs ++ cs) = bitsOfBytes bs ++ bitsOfBytes cs := by
  simp [bitsOfBytes]

@[simp] theorem bitsOfBytes_length (bs : List Byte) : (bitsOfBytes bs).length = 8 * bs.length := by
  induction bs with
  | nil => rfl
  | cons b bs ih => simp only [bitsOfBytes_cons, List.length_append, bitsOfByte_length, ih, List.length_cons]; omega

/-- One bit of a number split off at the top. -/
theorem mod_pow_succ_testBit (n v : Nat) :
    v % 2 ^ (n + 1) = (v.testBit n).toNat * 2 ^ n + v % 2 ^ n := by
  rw [Nat.mod_pow_succ, Nat.testBit_eq_decide_div_mod_eq]
  rcases Nat.mod_two_eq_zero_or_one (v / 2 ^ n) with h | h <;> simp [h, Nat.add_comm]

/-- The reading loop over a written field: the field's value is added below what was accumulated. -/
theorem readBitsFrom_bitsOfNat (n acc v : Nat) (rest : List Bool) :
    readBitsFrom n acc (bitsOfNat n v ++ rest) = .ok (acc * 2 ^ n + v % 2 ^ n, rest) := by
  induction n generalizing acc with
  | zero => simp [readBitsFrom, bitsOfNat, Nat.mod_one]
  | succ n ih =>
    simp only [bitsOfNat, List.cons_append, readBitsFrom, ih, mod_pow_succ_testBit n v]
    congr 2
    rw [Nat.pow_succ]
    ring

/-- `ReadBits(N)` of `bits_N(v)` is `v` (41_bit_cursor.md R172, R175). -/
theorem readBits_bitsOfNat (n v : Nat) (rest : List Bool) (h : v < 2 ^ n) :
    readBits n (bitsOfNat n v ++ rest) = .ok (v, rest) := by
  rw [readBits, readBitsFrom_bitsOfNat, Nat.mod_eq_of_lt h, Nat.zero_mul, Nat.zero_add]

/-- Everything the reading loop can answer: the bits it took spell the value, or the input was too short. -/
theorem readBitsFrom_cases (n acc : Nat) (bits : List Bool) :
    (∃ used rest, bits = used ++ rest ∧ used.length = n ∧
      readBitsFrom n acc bits = .ok (used.foldl (fun v b => 2 * v + b.toNat) acc, rest)) ∨
    (bits.length < n ∧ readBitsFrom n acc bits = .error .truncatedStream) := by
  induction n generalizing acc bits with
  | zero => exact .inl ⟨[], bits, rfl, rfl, rfl⟩
  | succ n ih =>
    cases bits with
    | nil => exact .inr ⟨by simp, rfl⟩
    | cons b bits =>
      rcases ih (2 * acc + b.toNat) bits with ⟨used, rest, rfl, hl, hr⟩ | ⟨hl, hr⟩
      · exact .inl ⟨b :: used, rest, rfl, by simp [hl], by simpa [readBitsFrom] using hr⟩
      · exact .inr ⟨by simpa using hl, by simpa [readBitsFrom] using hr⟩

/-- Everything `ReadBits(N)` can answer (41_bit_cursor.md R171, R172). -/
theorem readBits_cases (n : Nat) (bits : List Bool) :
    (∃ used rest, bits = used ++ rest ∧ used.length = n ∧ readBits n bits = .ok (natOfBits used, rest)) ∨
    (bits.length < n ∧ readBits n bits = .error .truncatedStream) :=
  readBitsFrom_cases n 0 bits

theorem natOfBits_foldl_lt (bits : List Bool) (acc : Nat) :
    bits.foldl (fun v b => 2 * v + b.toNat) acc < (acc + 1) * 2 ^ bits.length := by
  induction bits generalizing acc with
  | nil => simp
  | cons b bits ih =>
    refine (ih _).trans_le ?_
    rw [List.length_cons, Nat.pow_succ, ← Nat.mul_assoc, Nat.mul_right_comm]
    refine Nat.mul_le_mul_right _ ?_
    cases b <;> simp <;> omega

/-- `n` bits spell a number below `2^n`. -/
theorem natOfBits_lt (bits : List Bool) : natOfBits bits < 2 ^ bits.length := by
  simpa [natOfBits] using natOfBits_foldl_lt bits 0

theorem natOfBits_foldl_bitsOfNat (n v acc : Nat) :
    (bitsOfNat n v).foldl (fun v b => 2 * v + b.toNat) acc = acc * 2 ^ n + v % 2 ^ n := by
  induction n generalizing acc with
  | zero => simp [bitsOfNat, Nat.mod_one]
  | succ n ih =>
    rw [mod_pow_succ_testBit n v, bitsOfNat, List.foldl_cons, ih, Nat.pow_succ]
    ring

/-- `bits_N(v)` spells `v` (00_scope.md R12). -/
theorem natOfBits_bitsOfNat (n v : Nat) (h : v < 2 ^ n) : natOfBits (bitsOfNat n v) = v := by
  rw [natOfBits, natOfBits_foldl_bitsOfNat, Nat.mod_eq_of_lt h, Nat.zero_mul, Nat.zero_add]

/-- A byte's bits pack to the byte. -/
@[simp] theorem byteOfBits_bitsOfByte (b : Byte) : byteOfBits (bitsOfByte b) = b := by
  simp only [byteOfBits, bitsOfByte_length, Nat.sub_self, List.replicate_zero, List.append_nil]
  rw [bitsOfByte, natOfBits_bitsOfNat 8 _ b.isLt, BitVec.ofNat_toNat, BitVec.setWidth_eq]

@[simp] theorem packBytes_length (m : Nat) (bits : List Bool) : (packBytes m bits).length = m := by
  induction m generalizing bits with
  | zero => rfl
  | succ m ih => simp [packBytes, ih]

/-- `Pack` gives `ceil(len / 8)` bytes (41_bit_cursor.md R176). -/
@[simp] theorem pack_length (bits : List Bool) : (pack bits).length = (bits.length + 7) / 8 :=
  packBytes_length _ _

end Sys2Proof
end

