-- ==== Sys2Proof/Laws/Memory.lean ====
section
/-! SUPPORT. Buffers: a read after a write, and the canonical form is kept by every operation. -/

namespace Sys2Proof.Machine

@[simp] theorem Memory.get_nil (a : Nat) : Memory.get [] a = none := rfl

/-- A read after a write to the same index gives the value written. -/
@[simp] theorem Memory.get_set_same (m : Memory) (a : Nat) (v : Byte) :
    Memory.get (Memory.set m a v) a = some v := by
  induction m with
  | nil => simp [Memory.set, Memory.get]
  | cons c m ih =>
    obtain ⟨b, w⟩ := c
    simp only [Memory.set]
    split_ifs with h1 h2
    · simp [Memory.get]
    · simp [Memory.get]
    · simp [Memory.get, Ne.symm h2, ih]

/-- A write leaves every other index alone. -/
theorem Memory.get_set_other (m : Memory) {a x : Nat} (v : Byte) (h : x ≠ a) :
    Memory.get (Memory.set m a v) x = Memory.get m x := by
  induction m with
  | nil => simp [Memory.set, Memory.get, h.symm]
  | cons c m ih =>
    obtain ⟨b, w⟩ := c
    simp only [Memory.set]
    split_ifs with h1 h2
    · simp [Memory.get, h.symm]
    · subst h2; simp [Memory.get, h.symm]
    · simp [Memory.get, ih]

/-- The indexes listed after a write. -/
theorem Memory.mem_set {m : Memory} {a : Nat} {v : Byte} {c : Host.Cell}
    (h : c ∈ Memory.set m a v) : c = (a, v) ∨ c ∈ m := by
  induction m with
  | nil => simpa [Memory.set] using h
  | cons d m ih =>
    obtain ⟨b, w⟩ := d
    simp only [Memory.set] at h
    split_ifs at h with h1 h2
    · simpa using h
    · rcases List.mem_cons.1 h with h | h
      · exact .inl h
      · exact .inr (List.mem_cons_of_mem _ h)
    · rcases List.mem_cons.1 h with h | h
      · exact .inr (h ▸ List.mem_cons_self)
      · exact (ih h).imp id (List.mem_cons_of_mem _)

/-- A write keeps the canonical form. -/
theorem Memory.set_wf {m : Memory} (h : Memory.wf m) (a : Nat) (v : Byte) :
    Memory.wf (Memory.set m a v) := by
  induction m with
  | nil => simp [Memory.set, Memory.wf]
  | cons c m ih =>
    obtain ⟨b, w⟩ := c
    rw [Memory.wf, List.pairwise_cons] at h
    simp only [Memory.set]
    split_ifs with h1 h2
    · refine List.pairwise_cons.2 ⟨fun x hx => ?_, List.pairwise_cons.2 h⟩
      rcases List.mem_cons.1 hx with rfl | hx
      · exact h1
      · exact h1.trans (h.1 x hx)
    · subst h2
      exact List.pairwise_cons.2 h
    · refine List.pairwise_cons.2 ⟨fun x hx => ?_, ih h.2⟩
      rcases Memory.mem_set hx with rfl | hx
      · exact lt_of_le_of_ne (not_lt.1 h1) (Ne.symm h2)
      · exact h.1 x hx

/-- The entries of a block. -/
theorem Memory.mem_ofBytes {base : Nat} {bs : List Byte} {c : Host.Cell}
    (h : c ∈ Memory.ofBytes base bs) : base ≤ c.1 ∧ c.1 < base + bs.length := by
  induction bs generalizing base with
  | nil => simp [Memory.ofBytes] at h
  | cons b bs ih =>
    rcases List.mem_cons.1 h with rfl | h
    · simp
    · have := ih h
      simp only [List.length_cons]
      omega

/-- A block has the canonical form. -/
theorem Memory.ofBytes_wf (base : Nat) (bs : List Byte) : Memory.wf (Memory.ofBytes base bs) := by
  induction bs generalizing base with
  | nil => simp [Memory.ofBytes, Memory.wf]
  | cons b bs ih =>
    exact List.pairwise_cons.2 ⟨fun x hx => (Memory.mem_ofBytes hx).1, ih (base + 1)⟩

/-- Everything a block lists: its bytes at consecutive indexes. -/
theorem Memory.get_ofBytes (base : Nat) (bs : List Byte) (a : Nat) :
    Memory.get (Memory.ofBytes base bs) a = if base ≤ a then bs[a - base]? else none := by
  induction bs generalizing base with
  | nil => simp [Memory.ofBytes]
  | cons b bs ih =>
    simp only [Memory.ofBytes, Memory.get, ih]
    rcases Nat.lt_trichotomy base a with h | rfl | h
    · have h' : a - base = (a - (base + 1)) + 1 := by omega
      have h2 : base + 1 ≤ a := h
      simp [Nat.ne_of_lt h, h2, h.le, h']
    · simp
    · have h2 : ¬ base + 1 ≤ a := by omega
      have h3 : ¬ base ≤ a := by omega
      simp [Nat.ne_of_gt h, h2, h3]

/-- Storing a block keeps the canonical form. -/
theorem Memory.setBlock_wf {m : Memory} (h : Memory.wf m) (base : Nat) (bs : List Byte) :
    Memory.wf (Memory.setBlock m base bs) := by
  refine List.pairwise_append.2 ⟨h.filter _, List.pairwise_append.2 ⟨Memory.ofBytes_wf _ _, h.filter _, ?_⟩, ?_⟩
  · intro x hx y hy
    have := Memory.mem_ofBytes hx
    simp only [List.mem_filter, decide_eq_true_eq] at hy
    omega
  · intro x hx y hy
    simp only [List.mem_filter, decide_eq_true_eq] at hx
    rcases List.mem_append.1 hy with hy | hy
    · have := Memory.mem_ofBytes hy
      omega
    · simp only [List.mem_filter, decide_eq_true_eq] at hy
      omega

/-- A host write of IN_BUF: the byte reads back. -/
@[simp] theorem State.readIn_writeIn_same (s : State) (a : Nat) (b : Byte) :
    (s.writeIn a b).readIn a = b := by
  simp [State.readIn, State.writeIn]

/-- A host write of IN_BUF leaves every other byte alone. -/
theorem State.readIn_writeIn_other (s : State) {a x : Nat} (b : Byte) (h : x ≠ a) :
    (s.writeIn a b).readIn x = s.readIn x := by
  simp [State.readIn, State.writeIn, Memory.get_set_other _ _ h]

end Sys2Proof.Machine
end

