-- ==== Sys2Proof/Laws/State.lean ====
section
/-! SUPPORT. One lemma per field per update of the state, each true by computation, so that no proof unfolds an update. -/

namespace Sys2Proof.Machine

variable (s : State)

/-! Setting the working registers. -/

@[simp] theorem State.setWork_irqEn (w : Work) : (s.setWork w).irqEn = s.irqEn := rfl
@[simp] theorem State.setWork_done (w : Work) : (s.setWork w).done = s.done := rfl
@[simp] theorem State.setWork_err (w : Work) : (s.setWork w).err = s.err := rfl
@[simp] theorem State.setWork_proto (w : Work) : (s.setWork w).proto = s.proto := rfl
@[simp] theorem State.setWork_errCode (w : Work) : (s.setWork w).errCode = s.errCode := rfl
@[simp] theorem State.setWork_errClass (w : Work) : (s.setWork w).errClass = s.errClass := rfl
@[simp] theorem State.setWork_op (w : Work) : (s.setWork w).op = s.op := rfl
@[simp] theorem State.setWork_param (w : Work) : (s.setWork w).param = s.param := rfl
@[simp] theorem State.setWork_align (w : Work) : (s.setWork w).align = s.align := rfl
@[simp] theorem State.setWork_inLen (w : Work) : (s.setWork w).inLen = s.inLen := rfl
@[simp] theorem State.setWork_outLen (w : Work) : (s.setWork w).outLen = s.outLen := rfl
@[simp] theorem State.setWork_info (w : Work) : (s.setWork w).info = s.info := rfl
@[simp] theorem State.setWork_inBuf (w : Work) : (s.setWork w).inBuf = s.inBuf := rfl
@[simp] theorem State.setWork_outBuf (w : Work) : (s.setWork w).outBuf = s.outBuf := rfl
@[simp] theorem State.setWork_phase (w : Work) : (s.setWork w).phase = s.phase := rfl
@[simp] theorem State.setWork_lOp (w : Work) : (s.setWork w).lOp = s.lOp := rfl
@[simp] theorem State.setWork_lParam (w : Work) : (s.setWork w).lParam = s.lParam := rfl
@[simp] theorem State.setWork_lAlign (w : Work) : (s.setWork w).lAlign = s.lAlign := rfl
@[simp] theorem State.setWork_lInLen (w : Work) : (s.setWork w).lInLen = s.lInLen := rfl
@[simp] theorem State.setWork_work (w : Work) : (s.setWork w).work = w := rfl
@[simp] theorem State.setWork_rst (w : Work) : (s.setWork w).rst = s.rst := rfl
@[simp] theorem State.setWork_events (w : Work) : (s.setWork w).events = s.events := rfl
@[simp] theorem State.setWork_rdata (w : Work) : (s.setWork w).rdata = s.rdata := rfl
@[simp] theorem State.setWork_turn (w : Work) : (s.setWork w).turn = s.turn := rfl
@[simp] theorem State.setWork_draws (w : Work) : (s.setWork w).draws = s.draws := rfl
@[simp] theorem State.setWork_inDraw (w : Work) : (s.setWork w).inDraw = s.inDraw := rfl
@[simp] theorem State.setWork_outDraw (w : Work) : (s.setWork w).outDraw = s.outDraw := rfl
@[simp] theorem State.setWork_cfg (w : Work) : (s.setWork w).cfg = s.cfg := rfl

/-! Setting the control state. -/

@[simp] theorem State.goto_irqEn (p : Phase) : (s.goto p).irqEn = s.irqEn := rfl
@[simp] theorem State.goto_done (p : Phase) : (s.goto p).done = s.done := rfl
@[simp] theorem State.goto_err (p : Phase) : (s.goto p).err = s.err := rfl
@[simp] theorem State.goto_proto (p : Phase) : (s.goto p).proto = s.proto := rfl
@[simp] theorem State.goto_errCode (p : Phase) : (s.goto p).errCode = s.errCode := rfl
@[simp] theorem State.goto_errClass (p : Phase) : (s.goto p).errClass = s.errClass := rfl
@[simp] theorem State.goto_op (p : Phase) : (s.goto p).op = s.op := rfl
@[simp] theorem State.goto_param (p : Phase) : (s.goto p).param = s.param := rfl
@[simp] theorem State.goto_align (p : Phase) : (s.goto p).align = s.align := rfl
@[simp] theorem State.goto_inLen (p : Phase) : (s.goto p).inLen = s.inLen := rfl
@[simp] theorem State.goto_outLen (p : Phase) : (s.goto p).outLen = s.outLen := rfl
@[simp] theorem State.goto_info (p : Phase) : (s.goto p).info = s.info := rfl
@[simp] theorem State.goto_inBuf (p : Phase) : (s.goto p).inBuf = s.inBuf := rfl
@[simp] theorem State.goto_outBuf (p : Phase) : (s.goto p).outBuf = s.outBuf := rfl
@[simp] theorem State.goto_phase (p : Phase) : (s.goto p).phase = p := rfl
@[simp] theorem State.goto_lOp (p : Phase) : (s.goto p).lOp = s.lOp := rfl
@[simp] theorem State.goto_lParam (p : Phase) : (s.goto p).lParam = s.lParam := rfl
@[simp] theorem State.goto_lAlign (p : Phase) : (s.goto p).lAlign = s.lAlign := rfl
@[simp] theorem State.goto_lInLen (p : Phase) : (s.goto p).lInLen = s.lInLen := rfl
@[simp] theorem State.goto_work (p : Phase) : (s.goto p).work = s.work := rfl
@[simp] theorem State.goto_rst (p : Phase) : (s.goto p).rst = s.rst := rfl
@[simp] theorem State.goto_events (p : Phase) : (s.goto p).events = s.events := rfl
@[simp] theorem State.goto_rdata (p : Phase) : (s.goto p).rdata = s.rdata := rfl
@[simp] theorem State.goto_turn (p : Phase) : (s.goto p).turn = s.turn := rfl
@[simp] theorem State.goto_draws (p : Phase) : (s.goto p).draws = s.draws := rfl
@[simp] theorem State.goto_inDraw (p : Phase) : (s.goto p).inDraw = s.inDraw := rfl
@[simp] theorem State.goto_outDraw (p : Phase) : (s.goto p).outDraw = s.outDraw := rfl
@[simp] theorem State.goto_cfg (p : Phase) : (s.goto p).cfg = s.cfg := rfl

/-! A protocol violation (60_exceptions.md R376). -/

@[simp] theorem State.setProto_irqEn : (s.setProto).irqEn = s.irqEn := rfl
@[simp] theorem State.setProto_done : (s.setProto).done = s.done := rfl
@[simp] theorem State.setProto_err : (s.setProto).err = s.err := rfl
@[simp] theorem State.setProto_proto : (s.setProto).proto = true := rfl
@[simp] theorem State.setProto_errCode : (s.setProto).errCode = s.errCode := rfl
@[simp] theorem State.setProto_errClass : (s.setProto).errClass = s.errClass := rfl
@[simp] theorem State.setProto_op : (s.setProto).op = s.op := rfl
@[simp] theorem State.setProto_param : (s.setProto).param = s.param := rfl
@[simp] theorem State.setProto_align : (s.setProto).align = s.align := rfl
@[simp] theorem State.setProto_inLen : (s.setProto).inLen = s.inLen := rfl
@[simp] theorem State.setProto_outLen : (s.setProto).outLen = s.outLen := rfl
@[simp] theorem State.setProto_info : (s.setProto).info = s.info := rfl
@[simp] theorem State.setProto_inBuf : (s.setProto).inBuf = s.inBuf := rfl
@[simp] theorem State.setProto_outBuf : (s.setProto).outBuf = s.outBuf := rfl
@[simp] theorem State.setProto_phase : (s.setProto).phase = s.phase := rfl
@[simp] theorem State.setProto_lOp : (s.setProto).lOp = s.lOp := rfl
@[simp] theorem State.setProto_lParam : (s.setProto).lParam = s.lParam := rfl
@[simp] theorem State.setProto_lAlign : (s.setProto).lAlign = s.lAlign := rfl
@[simp] theorem State.setProto_lInLen : (s.setProto).lInLen = s.lInLen := rfl
@[simp] theorem State.setProto_work : (s.setProto).work = s.work := rfl
@[simp] theorem State.setProto_rst : (s.setProto).rst = s.rst := rfl
@[simp] theorem State.setProto_events : (s.setProto).events = s.events := rfl
@[simp] theorem State.setProto_rdata : (s.setProto).rdata = s.rdata := rfl
@[simp] theorem State.setProto_turn : (s.setProto).turn = s.turn := rfl
@[simp] theorem State.setProto_draws : (s.setProto).draws = s.draws := rfl
@[simp] theorem State.setProto_inDraw : (s.setProto).inDraw = s.inDraw := rfl
@[simp] theorem State.setProto_outDraw : (s.setProto).outDraw = s.outDraw := rfl
@[simp] theorem State.setProto_cfg : (s.setProto).cfg = s.cfg := rfl

/-! The flags of a success. -/

@[simp] theorem State.clearErr_irqEn : (s.clearErr).irqEn = s.irqEn := rfl
@[simp] theorem State.clearErr_done : (s.clearErr).done = s.done := rfl
@[simp] theorem State.clearErr_err : (s.clearErr).err = false := rfl
@[simp] theorem State.clearErr_proto : (s.clearErr).proto = s.proto := rfl
@[simp] theorem State.clearErr_errCode : (s.clearErr).errCode = 0 := rfl
@[simp] theorem State.clearErr_errClass : (s.clearErr).errClass = 0 := rfl
@[simp] theorem State.clearErr_op : (s.clearErr).op = s.op := rfl
@[simp] theorem State.clearErr_param : (s.clearErr).param = s.param := rfl
@[simp] theorem State.clearErr_align : (s.clearErr).align = s.align := rfl
@[simp] theorem State.clearErr_inLen : (s.clearErr).inLen = s.inLen := rfl
@[simp] theorem State.clearErr_outLen : (s.clearErr).outLen = s.outLen := rfl
@[simp] theorem State.clearErr_info : (s.clearErr).info = s.info := rfl
@[simp] theorem State.clearErr_inBuf : (s.clearErr).inBuf = s.inBuf := rfl
@[simp] theorem State.clearErr_outBuf : (s.clearErr).outBuf = s.outBuf := rfl
@[simp] theorem State.clearErr_phase : (s.clearErr).phase = s.phase := rfl
@[simp] theorem State.clearErr_lOp : (s.clearErr).lOp = s.lOp := rfl
@[simp] theorem State.clearErr_lParam : (s.clearErr).lParam = s.lParam := rfl
@[simp] theorem State.clearErr_lAlign : (s.clearErr).lAlign = s.lAlign := rfl
@[simp] theorem State.clearErr_lInLen : (s.clearErr).lInLen = s.lInLen := rfl
@[simp] theorem State.clearErr_work : (s.clearErr).work = s.work := rfl
@[simp] theorem State.clearErr_rst : (s.clearErr).rst = s.rst := rfl
@[simp] theorem State.clearErr_events : (s.clearErr).events = s.events := rfl
@[simp] theorem State.clearErr_rdata : (s.clearErr).rdata = s.rdata := rfl
@[simp] theorem State.clearErr_turn : (s.clearErr).turn = s.turn := rfl
@[simp] theorem State.clearErr_draws : (s.clearErr).draws = s.draws := rfl
@[simp] theorem State.clearErr_inDraw : (s.clearErr).inDraw = s.inDraw := rfl
@[simp] theorem State.clearErr_outDraw : (s.clearErr).outDraw = s.outDraw := rfl
@[simp] theorem State.clearErr_cfg : (s.clearErr).cfg = s.cfg := rfl

/-! The flags of an error. -/

@[simp] theorem State.setErr_irqEn (e : Err) : (s.setErr e).irqEn = s.irqEn := rfl
@[simp] theorem State.setErr_done (e : Err) : (s.setErr e).done = s.done := rfl
@[simp] theorem State.setErr_err (e : Err) : (s.setErr e).err = true := rfl
@[simp] theorem State.setErr_proto (e : Err) : (s.setErr e).proto = s.proto := rfl
@[simp] theorem State.setErr_errCode (e : Err) : (s.setErr e).errCode = e.code := rfl
@[simp] theorem State.setErr_errClass (e : Err) : (s.setErr e).errClass = e.cls := rfl
@[simp] theorem State.setErr_op (e : Err) : (s.setErr e).op = s.op := rfl
@[simp] theorem State.setErr_param (e : Err) : (s.setErr e).param = s.param := rfl
@[simp] theorem State.setErr_align (e : Err) : (s.setErr e).align = s.align := rfl
@[simp] theorem State.setErr_inLen (e : Err) : (s.setErr e).inLen = s.inLen := rfl
@[simp] theorem State.setErr_outLen (e : Err) : (s.setErr e).outLen = s.outLen := rfl
@[simp] theorem State.setErr_info (e : Err) : (s.setErr e).info = s.info := rfl
@[simp] theorem State.setErr_inBuf (e : Err) : (s.setErr e).inBuf = s.inBuf := rfl
@[simp] theorem State.setErr_outBuf (e : Err) : (s.setErr e).outBuf = s.outBuf := rfl
@[simp] theorem State.setErr_phase (e : Err) : (s.setErr e).phase = s.phase := rfl
@[simp] theorem State.setErr_lOp (e : Err) : (s.setErr e).lOp = s.lOp := rfl
@[simp] theorem State.setErr_lParam (e : Err) : (s.setErr e).lParam = s.lParam := rfl
@[simp] theorem State.setErr_lAlign (e : Err) : (s.setErr e).lAlign = s.lAlign := rfl
@[simp] theorem State.setErr_lInLen (e : Err) : (s.setErr e).lInLen = s.lInLen := rfl
@[simp] theorem State.setErr_work (e : Err) : (s.setErr e).work = s.work := rfl
@[simp] theorem State.setErr_rst (e : Err) : (s.setErr e).rst = s.rst := rfl
@[simp] theorem State.setErr_events (e : Err) : (s.setErr e).events = s.events := rfl
@[simp] theorem State.setErr_rdata (e : Err) : (s.setErr e).rdata = s.rdata := rfl
@[simp] theorem State.setErr_turn (e : Err) : (s.setErr e).turn = s.turn := rfl
@[simp] theorem State.setErr_draws (e : Err) : (s.setErr e).draws = s.draws := rfl
@[simp] theorem State.setErr_inDraw (e : Err) : (s.setErr e).inDraw = s.inDraw := rfl
@[simp] theorem State.setErr_outDraw (e : Err) : (s.setErr e).outDraw = s.outDraw := rfl
@[simp] theorem State.setErr_cfg (e : Err) : (s.setErr e).cfg = s.cfg := rfl

/-! OUT_BUF becoming unspecified. -/

@[simp] theorem State.scrambleOut_irqEn : (s.scrambleOut).irqEn = s.irqEn := rfl
@[simp] theorem State.scrambleOut_done : (s.scrambleOut).done = s.done := rfl
@[simp] theorem State.scrambleOut_err : (s.scrambleOut).err = s.err := rfl
@[simp] theorem State.scrambleOut_proto : (s.scrambleOut).proto = s.proto := rfl
@[simp] theorem State.scrambleOut_errCode : (s.scrambleOut).errCode = s.errCode := rfl
@[simp] theorem State.scrambleOut_errClass : (s.scrambleOut).errClass = s.errClass := rfl
@[simp] theorem State.scrambleOut_op : (s.scrambleOut).op = s.op := rfl
@[simp] theorem State.scrambleOut_param : (s.scrambleOut).param = s.param := rfl
@[simp] theorem State.scrambleOut_align : (s.scrambleOut).align = s.align := rfl
@[simp] theorem State.scrambleOut_inLen : (s.scrambleOut).inLen = s.inLen := rfl
@[simp] theorem State.scrambleOut_outLen : (s.scrambleOut).outLen = s.outLen := rfl
@[simp] theorem State.scrambleOut_info : (s.scrambleOut).info = s.info := rfl
@[simp] theorem State.scrambleOut_inBuf : (s.scrambleOut).inBuf = s.inBuf := rfl
@[simp] theorem State.scrambleOut_outBuf : (s.scrambleOut).outBuf = [] := rfl
@[simp] theorem State.scrambleOut_phase : (s.scrambleOut).phase = s.phase := rfl
@[simp] theorem State.scrambleOut_lOp : (s.scrambleOut).lOp = s.lOp := rfl
@[simp] theorem State.scrambleOut_lParam : (s.scrambleOut).lParam = s.lParam := rfl
@[simp] theorem State.scrambleOut_lAlign : (s.scrambleOut).lAlign = s.lAlign := rfl
@[simp] theorem State.scrambleOut_lInLen : (s.scrambleOut).lInLen = s.lInLen := rfl
@[simp] theorem State.scrambleOut_work : (s.scrambleOut).work = s.work := rfl
@[simp] theorem State.scrambleOut_rst : (s.scrambleOut).rst = s.rst := rfl
@[simp] theorem State.scrambleOut_events : (s.scrambleOut).events = s.events := rfl
@[simp] theorem State.scrambleOut_rdata : (s.scrambleOut).rdata = s.rdata := rfl
@[simp] theorem State.scrambleOut_turn : (s.scrambleOut).turn = s.turn := rfl
@[simp] theorem State.scrambleOut_draws : (s.scrambleOut).draws = s.draws + 1 := rfl
@[simp] theorem State.scrambleOut_inDraw : (s.scrambleOut).inDraw = s.inDraw := rfl
@[simp] theorem State.scrambleOut_outDraw : (s.scrambleOut).outDraw = s.draws := rfl
@[simp] theorem State.scrambleOut_cfg : (s.scrambleOut).cfg = s.cfg := rfl

/-! BUSY falling and DONE rising. -/

@[simp] theorem State.finish_irqEn : (s.finish).irqEn = s.irqEn := rfl
@[simp] theorem State.finish_done : (s.finish).done = true := rfl
@[simp] theorem State.finish_err : (s.finish).err = s.err := rfl
@[simp] theorem State.finish_proto : (s.finish).proto = s.proto := rfl
@[simp] theorem State.finish_errCode : (s.finish).errCode = s.errCode := rfl
@[simp] theorem State.finish_errClass : (s.finish).errClass = s.errClass := rfl
@[simp] theorem State.finish_op : (s.finish).op = s.op := rfl
@[simp] theorem State.finish_param : (s.finish).param = s.param := rfl
@[simp] theorem State.finish_align : (s.finish).align = s.align := rfl
@[simp] theorem State.finish_inLen : (s.finish).inLen = s.inLen := rfl
@[simp] theorem State.finish_outLen : (s.finish).outLen = s.outLen := rfl
@[simp] theorem State.finish_info : (s.finish).info = s.info := rfl
@[simp] theorem State.finish_inBuf : (s.finish).inBuf = s.inBuf := rfl
@[simp] theorem State.finish_outBuf : (s.finish).outBuf = s.outBuf := rfl
@[simp] theorem State.finish_phase : (s.finish).phase = .idle := rfl
@[simp] theorem State.finish_lOp : (s.finish).lOp = s.lOp := rfl
@[simp] theorem State.finish_lParam : (s.finish).lParam = s.lParam := rfl
@[simp] theorem State.finish_lAlign : (s.finish).lAlign = s.lAlign := rfl
@[simp] theorem State.finish_lInLen : (s.finish).lInLen = s.lInLen := rfl
@[simp] theorem State.finish_work : (s.finish).work = s.work := rfl
@[simp] theorem State.finish_rst : (s.finish).rst = s.rst := rfl
@[simp] theorem State.finish_events : (s.finish).events = s.events := rfl
@[simp] theorem State.finish_rdata : (s.finish).rdata = s.rdata := rfl
@[simp] theorem State.finish_turn : (s.finish).turn = s.turn := rfl
@[simp] theorem State.finish_draws : (s.finish).draws = s.draws := rfl
@[simp] theorem State.finish_inDraw : (s.finish).inDraw = s.inDraw := rfl
@[simp] theorem State.finish_outDraw : (s.finish).outDraw = s.outDraw := rfl
@[simp] theorem State.finish_cfg : (s.finish).cfg = s.cfg := rfl

/-! Error entry (60_exceptions.md R374). -/

@[simp] theorem State.raise_irqEn (e : Err) : (s.raise e).irqEn = s.irqEn := rfl
@[simp] theorem State.raise_done (e : Err) : (s.raise e).done = true := rfl
@[simp] theorem State.raise_err (e : Err) : (s.raise e).err = true := rfl
@[simp] theorem State.raise_proto (e : Err) : (s.raise e).proto = s.proto := rfl
@[simp] theorem State.raise_errCode (e : Err) : (s.raise e).errCode = e.code := rfl
@[simp] theorem State.raise_errClass (e : Err) : (s.raise e).errClass = e.cls := rfl
@[simp] theorem State.raise_op (e : Err) : (s.raise e).op = s.op := rfl
@[simp] theorem State.raise_param (e : Err) : (s.raise e).param = s.param := rfl
@[simp] theorem State.raise_align (e : Err) : (s.raise e).align = s.align := rfl
@[simp] theorem State.raise_inLen (e : Err) : (s.raise e).inLen = s.inLen := rfl
@[simp] theorem State.raise_outLen (e : Err) : (s.raise e).outLen = 0 := rfl
@[simp] theorem State.raise_info (e : Err) : (s.raise e).info = 0 := rfl
@[simp] theorem State.raise_inBuf (e : Err) : (s.raise e).inBuf = s.inBuf := rfl
@[simp] theorem State.raise_outBuf (e : Err) : (s.raise e).outBuf = [] := rfl
@[simp] theorem State.raise_phase (e : Err) : (s.raise e).phase = .idle := rfl
@[simp] theorem State.raise_lOp (e : Err) : (s.raise e).lOp = s.lOp := rfl
@[simp] theorem State.raise_lParam (e : Err) : (s.raise e).lParam = s.lParam := rfl
@[simp] theorem State.raise_lAlign (e : Err) : (s.raise e).lAlign = s.lAlign := rfl
@[simp] theorem State.raise_lInLen (e : Err) : (s.raise e).lInLen = s.lInLen := rfl
@[simp] theorem State.raise_work (e : Err) : (s.raise e).work = s.work := rfl
@[simp] theorem State.raise_rst (e : Err) : (s.raise e).rst = s.rst := rfl
@[simp] theorem State.raise_events (e : Err) : (s.raise e).events = s.events := rfl
@[simp] theorem State.raise_rdata (e : Err) : (s.raise e).rdata = s.rdata := rfl
@[simp] theorem State.raise_turn (e : Err) : (s.raise e).turn = s.turn := rfl
@[simp] theorem State.raise_draws (e : Err) : (s.raise e).draws = s.draws + 1 := rfl
@[simp] theorem State.raise_inDraw (e : Err) : (s.raise e).inDraw = s.inDraw := rfl
@[simp] theorem State.raise_outDraw (e : Err) : (s.raise e).outDraw = s.draws := rfl
@[simp] theorem State.raise_cfg (e : Err) : (s.raise e).cfg = s.cfg := rfl

/-! START (40_operations.md R131). -/

@[simp] theorem State.start_irqEn : (s.start).irqEn = s.irqEn := rfl
@[simp] theorem State.start_done : (s.start).done = false := rfl
@[simp] theorem State.start_err : (s.start).err = false := rfl
@[simp] theorem State.start_proto : (s.start).proto = s.proto := rfl
@[simp] theorem State.start_errCode : (s.start).errCode = 0 := rfl
@[simp] theorem State.start_errClass : (s.start).errClass = 0 := rfl
@[simp] theorem State.start_op : (s.start).op = s.op := rfl
@[simp] theorem State.start_param : (s.start).param = s.param := rfl
@[simp] theorem State.start_align : (s.start).align = s.align := rfl
@[simp] theorem State.start_inLen : (s.start).inLen = s.inLen := rfl
@[simp] theorem State.start_outLen : (s.start).outLen = 0 := rfl
@[simp] theorem State.start_info : (s.start).info = 0 := rfl
@[simp] theorem State.start_inBuf : (s.start).inBuf = s.inBuf := rfl
@[simp] theorem State.start_outBuf : (s.start).outBuf = s.outBuf := rfl
@[simp] theorem State.start_phase : (s.start).phase = .dispatch := rfl
@[simp] theorem State.start_lOp : (s.start).lOp = s.op := rfl
@[simp] theorem State.start_lParam : (s.start).lParam = s.param := rfl
@[simp] theorem State.start_lAlign : (s.start).lAlign = s.align := rfl
@[simp] theorem State.start_lInLen : (s.start).lInLen = s.inLen := rfl
@[simp] theorem State.start_work : (s.start).work = Work.init := rfl
@[simp] theorem State.start_rst : (s.start).rst = s.rst := rfl
@[simp] theorem State.start_events : (s.start).events = s.events := rfl
@[simp] theorem State.start_rdata : (s.start).rdata = s.rdata := rfl
@[simp] theorem State.start_turn : (s.start).turn = s.turn := rfl
@[simp] theorem State.start_draws : (s.start).draws = s.draws := rfl
@[simp] theorem State.start_inDraw : (s.start).inDraw = s.inDraw := rfl
@[simp] theorem State.start_outDraw : (s.start).outDraw = s.outDraw := rfl
@[simp] theorem State.start_cfg : (s.start).cfg = s.cfg := rfl

/-! CLEAR (40_operations.md R132). -/

@[simp] theorem State.clear_irqEn : (s.clear).irqEn = s.irqEn := rfl
@[simp] theorem State.clear_done : (s.clear).done = false := rfl
@[simp] theorem State.clear_err : (s.clear).err = false := rfl
@[simp] theorem State.clear_proto : (s.clear).proto = false := rfl
@[simp] theorem State.clear_errCode : (s.clear).errCode = 0 := rfl
@[simp] theorem State.clear_errClass : (s.clear).errClass = 0 := rfl
@[simp] theorem State.clear_op : (s.clear).op = s.op := rfl
@[simp] theorem State.clear_param : (s.clear).param = s.param := rfl
@[simp] theorem State.clear_align : (s.clear).align = s.align := rfl
@[simp] theorem State.clear_inLen : (s.clear).inLen = s.inLen := rfl
@[simp] theorem State.clear_outLen : (s.clear).outLen = s.outLen := rfl
@[simp] theorem State.clear_info : (s.clear).info = s.info := rfl
@[simp] theorem State.clear_inBuf : (s.clear).inBuf = s.inBuf := rfl
@[simp] theorem State.clear_outBuf : (s.clear).outBuf = s.outBuf := rfl
@[simp] theorem State.clear_phase : (s.clear).phase = s.phase := rfl
@[simp] theorem State.clear_lOp : (s.clear).lOp = s.lOp := rfl
@[simp] theorem State.clear_lParam : (s.clear).lParam = s.lParam := rfl
@[simp] theorem State.clear_lAlign : (s.clear).lAlign = s.lAlign := rfl
@[simp] theorem State.clear_lInLen : (s.clear).lInLen = s.lInLen := rfl
@[simp] theorem State.clear_work : (s.clear).work = s.work := rfl
@[simp] theorem State.clear_rst : (s.clear).rst = s.rst := rfl
@[simp] theorem State.clear_events : (s.clear).events = s.events := rfl
@[simp] theorem State.clear_rdata : (s.clear).rdata = s.rdata := rfl
@[simp] theorem State.clear_turn : (s.clear).turn = s.turn := rfl
@[simp] theorem State.clear_draws : (s.clear).draws = s.draws := rfl
@[simp] theorem State.clear_inDraw : (s.clear).inDraw = s.inDraw := rfl
@[simp] theorem State.clear_outDraw : (s.clear).outDraw = s.outDraw := rfl
@[simp] theorem State.clear_cfg : (s.clear).cfg = s.cfg := rfl

/-! The start of a decoder. -/

@[simp] theorem State.beginDecode_irqEn (p : Phase) : (s.beginDecode p).irqEn = s.irqEn := rfl
@[simp] theorem State.beginDecode_done (p : Phase) : (s.beginDecode p).done = s.done := rfl
@[simp] theorem State.beginDecode_err (p : Phase) : (s.beginDecode p).err = s.err := rfl
@[simp] theorem State.beginDecode_proto (p : Phase) : (s.beginDecode p).proto = s.proto := rfl
@[simp] theorem State.beginDecode_errCode (p : Phase) : (s.beginDecode p).errCode = s.errCode := rfl
@[simp] theorem State.beginDecode_errClass (p : Phase) : (s.beginDecode p).errClass = s.errClass := rfl
@[simp] theorem State.beginDecode_op (p : Phase) : (s.beginDecode p).op = s.op := rfl
@[simp] theorem State.beginDecode_param (p : Phase) : (s.beginDecode p).param = s.param := rfl
@[simp] theorem State.beginDecode_align (p : Phase) : (s.beginDecode p).align = s.align := rfl
@[simp] theorem State.beginDecode_inLen (p : Phase) : (s.beginDecode p).inLen = s.inLen := rfl
@[simp] theorem State.beginDecode_outLen (p : Phase) : (s.beginDecode p).outLen = s.outLen := rfl
@[simp] theorem State.beginDecode_info (p : Phase) : (s.beginDecode p).info = s.info := rfl
@[simp] theorem State.beginDecode_inBuf (p : Phase) : (s.beginDecode p).inBuf = s.inBuf := rfl
@[simp] theorem State.beginDecode_outBuf (p : Phase) : (s.beginDecode p).outBuf = s.outBuf := rfl
@[simp] theorem State.beginDecode_phase (p : Phase) : (s.beginDecode p).phase = p := rfl
@[simp] theorem State.beginDecode_lOp (p : Phase) : (s.beginDecode p).lOp = s.lOp := rfl
@[simp] theorem State.beginDecode_lParam (p : Phase) : (s.beginDecode p).lParam = s.lParam := rfl
@[simp] theorem State.beginDecode_lAlign (p : Phase) : (s.beginDecode p).lAlign = s.lAlign := rfl
@[simp] theorem State.beginDecode_lInLen (p : Phase) : (s.beginDecode p).lInLen = s.lInLen := rfl
@[simp] theorem State.beginDecode_work (p : Phase) : (s.beginDecode p).work = Work.init := rfl
@[simp] theorem State.beginDecode_rst (p : Phase) : (s.beginDecode p).rst = s.rst := rfl
@[simp] theorem State.beginDecode_events (p : Phase) : (s.beginDecode p).events = s.events := rfl
@[simp] theorem State.beginDecode_rdata (p : Phase) : (s.beginDecode p).rdata = s.rdata := rfl
@[simp] theorem State.beginDecode_turn (p : Phase) : (s.beginDecode p).turn = s.turn := rfl
@[simp] theorem State.beginDecode_draws (p : Phase) : (s.beginDecode p).draws = s.draws := rfl
@[simp] theorem State.beginDecode_inDraw (p : Phase) : (s.beginDecode p).inDraw = s.inDraw := rfl
@[simp] theorem State.beginDecode_outDraw (p : Phase) : (s.beginDecode p).outDraw = s.outDraw := rfl
@[simp] theorem State.beginDecode_cfg (p : Phase) : (s.beginDecode p).cfg = s.cfg := rfl

/-! A host write of IN_BUF. -/

@[simp] theorem State.writeIn_irqEn (a : Nat) (b : Byte) : (s.writeIn a b).irqEn = s.irqEn := rfl
@[simp] theorem State.writeIn_done (a : Nat) (b : Byte) : (s.writeIn a b).done = s.done := rfl
@[simp] theorem State.writeIn_err (a : Nat) (b : Byte) : (s.writeIn a b).err = s.err := rfl
@[simp] theorem State.writeIn_proto (a : Nat) (b : Byte) : (s.writeIn a b).proto = s.proto := rfl
@[simp] theorem State.writeIn_errCode (a : Nat) (b : Byte) : (s.writeIn a b).errCode = s.errCode := rfl
@[simp] theorem State.writeIn_errClass (a : Nat) (b : Byte) : (s.writeIn a b).errClass = s.errClass := rfl
@[simp] theorem State.writeIn_op (a : Nat) (b : Byte) : (s.writeIn a b).op = s.op := rfl
@[simp] theorem State.writeIn_param (a : Nat) (b : Byte) : (s.writeIn a b).param = s.param := rfl
@[simp] theorem State.writeIn_align (a : Nat) (b : Byte) : (s.writeIn a b).align = s.align := rfl
@[simp] theorem State.writeIn_inLen (a : Nat) (b : Byte) : (s.writeIn a b).inLen = s.inLen := rfl
@[simp] theorem State.writeIn_outLen (a : Nat) (b : Byte) : (s.writeIn a b).outLen = s.outLen := rfl
@[simp] theorem State.writeIn_info (a : Nat) (b : Byte) : (s.writeIn a b).info = s.info := rfl
@[simp] theorem State.writeIn_inBuf (a : Nat) (b : Byte) : (s.writeIn a b).inBuf = Memory.set s.inBuf a b := rfl
@[simp] theorem State.writeIn_outBuf (a : Nat) (b : Byte) : (s.writeIn a b).outBuf = s.outBuf := rfl
@[simp] theorem State.writeIn_phase (a : Nat) (b : Byte) : (s.writeIn a b).phase = s.phase := rfl
@[simp] theorem State.writeIn_lOp (a : Nat) (b : Byte) : (s.writeIn a b).lOp = s.lOp := rfl
@[simp] theorem State.writeIn_lParam (a : Nat) (b : Byte) : (s.writeIn a b).lParam = s.lParam := rfl
@[simp] theorem State.writeIn_lAlign (a : Nat) (b : Byte) : (s.writeIn a b).lAlign = s.lAlign := rfl
@[simp] theorem State.writeIn_lInLen (a : Nat) (b : Byte) : (s.writeIn a b).lInLen = s.lInLen := rfl
@[simp] theorem State.writeIn_work (a : Nat) (b : Byte) : (s.writeIn a b).work = s.work := rfl
@[simp] theorem State.writeIn_rst (a : Nat) (b : Byte) : (s.writeIn a b).rst = s.rst := rfl
@[simp] theorem State.writeIn_events (a : Nat) (b : Byte) : (s.writeIn a b).events = s.events := rfl
@[simp] theorem State.writeIn_rdata (a : Nat) (b : Byte) : (s.writeIn a b).rdata = s.rdata := rfl
@[simp] theorem State.writeIn_turn (a : Nat) (b : Byte) : (s.writeIn a b).turn = s.turn := rfl
@[simp] theorem State.writeIn_draws (a : Nat) (b : Byte) : (s.writeIn a b).draws = s.draws := rfl
@[simp] theorem State.writeIn_inDraw (a : Nat) (b : Byte) : (s.writeIn a b).inDraw = s.inDraw := rfl
@[simp] theorem State.writeIn_outDraw (a : Nat) (b : Byte) : (s.writeIn a b).outDraw = s.outDraw := rfl
@[simp] theorem State.writeIn_cfg (a : Nat) (b : Byte) : (s.writeIn a b).cfg = s.cfg := rfl

/-! Reset (70_reset_and_hazards.md R400). -/

@[simp] theorem State.assertReset_irqEn : (s.assertReset).irqEn = State.reset.irqEn := rfl
@[simp] theorem State.assertReset_done : (s.assertReset).done = State.reset.done := rfl
@[simp] theorem State.assertReset_err : (s.assertReset).err = State.reset.err := rfl
@[simp] theorem State.assertReset_proto : (s.assertReset).proto = State.reset.proto := rfl
@[simp] theorem State.assertReset_errCode : (s.assertReset).errCode = State.reset.errCode := rfl
@[simp] theorem State.assertReset_errClass : (s.assertReset).errClass = State.reset.errClass := rfl
@[simp] theorem State.assertReset_op : (s.assertReset).op = State.reset.op := rfl
@[simp] theorem State.assertReset_param : (s.assertReset).param = State.reset.param := rfl
@[simp] theorem State.assertReset_align : (s.assertReset).align = State.reset.align := rfl
@[simp] theorem State.assertReset_inLen : (s.assertReset).inLen = State.reset.inLen := rfl
@[simp] theorem State.assertReset_outLen : (s.assertReset).outLen = State.reset.outLen := rfl
@[simp] theorem State.assertReset_info : (s.assertReset).info = State.reset.info := rfl
@[simp] theorem State.assertReset_inBuf : (s.assertReset).inBuf = State.reset.inBuf := rfl
@[simp] theorem State.assertReset_outBuf : (s.assertReset).outBuf = State.reset.outBuf := rfl
@[simp] theorem State.assertReset_phase : (s.assertReset).phase = State.reset.phase := rfl
@[simp] theorem State.assertReset_lOp : (s.assertReset).lOp = State.reset.lOp := rfl
@[simp] theorem State.assertReset_lParam : (s.assertReset).lParam = State.reset.lParam := rfl
@[simp] theorem State.assertReset_lAlign : (s.assertReset).lAlign = State.reset.lAlign := rfl
@[simp] theorem State.assertReset_lInLen : (s.assertReset).lInLen = State.reset.lInLen := rfl
@[simp] theorem State.assertReset_work : (s.assertReset).work = State.reset.work := rfl
@[simp] theorem State.assertReset_rst : (s.assertReset).rst = true := rfl
@[simp] theorem State.assertReset_events : (s.assertReset).events = s.events := rfl
@[simp] theorem State.assertReset_rdata : (s.assertReset).rdata = s.rdata := rfl
@[simp] theorem State.assertReset_turn : (s.assertReset).turn = s.turn := rfl
@[simp] theorem State.assertReset_draws : (s.assertReset).draws = s.draws + 2 := rfl
@[simp] theorem State.assertReset_inDraw : (s.assertReset).inDraw = s.draws := rfl
@[simp] theorem State.assertReset_outDraw : (s.assertReset).outDraw = s.draws + 1 := rfl
@[simp] theorem State.assertReset_cfg : (s.assertReset).cfg = s.cfg := rfl

/-! The release of reset. -/

@[simp] theorem State.releaseReset_irqEn : (s.releaseReset).irqEn = s.irqEn := rfl
@[simp] theorem State.releaseReset_done : (s.releaseReset).done = s.done := rfl
@[simp] theorem State.releaseReset_err : (s.releaseReset).err = s.err := rfl
@[simp] theorem State.releaseReset_proto : (s.releaseReset).proto = s.proto := rfl
@[simp] theorem State.releaseReset_errCode : (s.releaseReset).errCode = s.errCode := rfl
@[simp] theorem State.releaseReset_errClass : (s.releaseReset).errClass = s.errClass := rfl
@[simp] theorem State.releaseReset_op : (s.releaseReset).op = s.op := rfl
@[simp] theorem State.releaseReset_param : (s.releaseReset).param = s.param := rfl
@[simp] theorem State.releaseReset_align : (s.releaseReset).align = s.align := rfl
@[simp] theorem State.releaseReset_inLen : (s.releaseReset).inLen = s.inLen := rfl
@[simp] theorem State.releaseReset_outLen : (s.releaseReset).outLen = s.outLen := rfl
@[simp] theorem State.releaseReset_info : (s.releaseReset).info = s.info := rfl
@[simp] theorem State.releaseReset_inBuf : (s.releaseReset).inBuf = s.inBuf := rfl
@[simp] theorem State.releaseReset_outBuf : (s.releaseReset).outBuf = s.outBuf := rfl
@[simp] theorem State.releaseReset_phase : (s.releaseReset).phase = s.phase := rfl
@[simp] theorem State.releaseReset_lOp : (s.releaseReset).lOp = s.lOp := rfl
@[simp] theorem State.releaseReset_lParam : (s.releaseReset).lParam = s.lParam := rfl
@[simp] theorem State.releaseReset_lAlign : (s.releaseReset).lAlign = s.lAlign := rfl
@[simp] theorem State.releaseReset_lInLen : (s.releaseReset).lInLen = s.lInLen := rfl
@[simp] theorem State.releaseReset_work : (s.releaseReset).work = s.work := rfl
@[simp] theorem State.releaseReset_rst : (s.releaseReset).rst = false := rfl
@[simp] theorem State.releaseReset_events : (s.releaseReset).events = s.events := rfl
@[simp] theorem State.releaseReset_rdata : (s.releaseReset).rdata = s.rdata := rfl
@[simp] theorem State.releaseReset_turn : (s.releaseReset).turn = s.turn := rfl
@[simp] theorem State.releaseReset_draws : (s.releaseReset).draws = s.draws := rfl
@[simp] theorem State.releaseReset_inDraw : (s.releaseReset).inDraw = s.inDraw := rfl
@[simp] theorem State.releaseReset_outDraw : (s.releaseReset).outDraw = s.outDraw := rfl
@[simp] theorem State.releaseReset_cfg : (s.releaseReset).cfg = s.cfg := rfl

/-! Reading through the updates. -/

@[simp] theorem State.readIn_setWork (w : Work) (a : Nat) : (s.setWork w).readIn a = s.readIn a := rfl
@[simp] theorem State.readIn_goto (p : Phase) (a : Nat) : (s.goto p).readIn a = s.readIn a := rfl
@[simp] theorem State.readIn_raise (e : Err) (a : Nat) : (s.raise e).readIn a = s.readIn a := rfl
@[simp] theorem State.readIn_start (a : Nat) : s.start.readIn a = s.readIn a := rfl
@[simp] theorem State.readIn_clear (a : Nat) : s.clear.readIn a = s.readIn a := rfl
@[simp] theorem State.readIn_setProto (a : Nat) : s.setProto.readIn a = s.readIn a := rfl
@[simp] theorem State.readOut_setWork (w : Work) (a : Nat) : (s.setWork w).readOut a = s.readOut a := rfl
@[simp] theorem State.readOut_goto (p : Phase) (a : Nat) : (s.goto p).readOut a = s.readOut a := rfl
@[simp] theorem State.readOut_setProto (a : Nat) : s.setProto.readOut a = s.readOut a := rfl
@[simp] theorem State.readOut_clear (a : Nat) : s.clear.readOut a = s.readOut a := rfl
@[simp] theorem State.irq_raise (e : Err) : (s.raise e).irq = s.irqEn := by simp [State.irq]
@[simp] theorem State.irq_start : s.start.irq = false := by simp [State.irq]
@[simp] theorem State.irq_clear : s.clear.irq = false := by simp [State.irq]

end Sys2Proof.Machine
end

