-- ==== Sys2Proof/Laws/Ops.lean ====
section
/-! SUPPORT. One lemma for each shared operation that says everything it can do. Proofs cite these instead of unfolding
the operation. -/

namespace Sys2Proof.Machine

/-! ### Errors in the decoders -/

/-- A sequence of two fallible steps succeeds exactly when both do. -/
theorem except_bind_eq_ok {α β : Type} {x : Except Err α} {f : α → Except Err β} {b : β} :
    (x >>= f) = .ok b ↔ ∃ a, x = .ok a ∧ f a = .ok b := by
  cases x with
  | error e => simp [bind, Except.bind]
  | ok a => simp [bind, Except.bind]

@[simp] theorem except_ok_bind {α β : Type} (a : α) (f : α → Except Err β) :
    (Except.ok a >>= f) = f a := rfl

@[simp] theorem except_error_bind {α β : Type} (e : Err) (f : α → Except Err β) :
    ((Except.error e : Except Err α) >>= f) = .error e := rfl

@[simp] theorem except_pure {α : Type} (a : α) : (pure a : Except Err α) = .ok a := rfl

/-! ### Completion -/

/-- Everything a completion can do (40_operations.md R134): the result, or OUTPUT_OVERFLOW where it is too long. -/
theorem State.complete_cases (s : State) (bytes : List Byte) (info : BitVec 7) :
    (bytes.length ≤ s.cfg.bufSize ∧ s.complete bytes info =
      { s with
        outBuf := Memory.ofBytes 0 bytes, outDraw := s.draws, draws := s.draws + 1,
        err := false, errCode := 0, errClass := 0, outLen := BitVec.ofNat 17 bytes.length,
        info := info, phase := .idle, done := true }) ∨
    (s.cfg.bufSize < bytes.length ∧ s.complete bytes info = s.raise .outputOverflow) := by
  unfold State.complete
  split_ifs with h
  · exact .inr ⟨h, rfl⟩
  · exact .inl ⟨not_lt.1 h, rfl⟩

/-- After a completion the engine is IDLE, whatever the result (40_operations.md R134). -/
@[simp] theorem State.complete_phase (s : State) (bytes : List Byte) (info : BitVec 7) :
    (s.complete bytes info).phase = .idle := by
  rcases s.complete_cases bytes info with ⟨-, h⟩ | ⟨-, h⟩ <;> simp [h, State.raise, State.finish]

/-- After a completion DONE is 1, whatever the result (40_operations.md R134). -/
@[simp] theorem State.complete_done (s : State) (bytes : List Byte) (info : BitVec 7) :
    (s.complete bytes info).done = true := by
  rcases s.complete_cases bytes info with ⟨-, h⟩ | ⟨-, h⟩ <;> simp [h, State.raise, State.finish]

/-- After a result that fits, OUT_BUF reads as the result (40_operations.md R134). -/
theorem State.readOut_complete (s : State) {bytes : List Byte} (info : BitVec 7)
    (h : bytes.length ≤ s.cfg.bufSize) {a : Nat} (ha : a < bytes.length) :
    (s.complete bytes info).readOut a = bytes.getD a 0 := by
  rcases s.complete_cases bytes info with ⟨-, h'⟩ | ⟨h', -⟩
  · simp [h', State.readOut, Memory.get_ofBytes, ha]
  · omega

/-! ### The engine's input -/

/-- What IN[a .. a + n) is: bytes of IN_BUF, cut at L_IN_LEN (20_memory.md R68). -/
theorem State.inBytes_eq_map (s : State) (a n : Nat) :
    s.inBytes a n = (List.range (min n (s.lInLen.toNat - a))).map fun j => s.readIn (a + j) := by
  induction n generalizing a with
  | zero => simp [State.inBytes]
  | succ n ih =>
    unfold State.inBytes
    split_ifs with h
    · have h1 : min (n + 1) (s.lInLen.toNat - a) = min n (s.lInLen.toNat - (a + 1)) + 1 := by omega
      rw [ih, h1, List.range_succ_eq_map, List.map_cons, List.map_map]
      simp [Function.comp_def, Nat.add_comm, Nat.add_left_comm]
    · have h1 : min (n + 1) (s.lInLen.toNat - a) = 0 := by omega
      simp [h1]

@[simp] theorem State.inBytes_length (s : State) (a n : Nat) :
    (s.inBytes a n).length = min n (s.lInLen.toNat - a) := by
  simp [State.inBytes_eq_map]

@[simp] theorem State.inBytes_setWork (s : State) (w : Work) (a n : Nat) :
    (s.setWork w).inBytes a n = s.inBytes a n := by
  simp [State.inBytes_eq_map]

/-- Everything a payload read can do (44_codec_b_commands.md R291). -/
theorem State.getBytes_cases (s : State) (n : Nat) :
    (s.work.rp + n ≤ s.lInLen.toNat ∨ n = 0) ∧
      s.getBytes n = some ((List.range n).map fun j => s.readIn (s.work.rp + j),
        s.setWork { s.work with rp := s.work.rp + n }) ∨
    (s.lInLen.toNat < s.work.rp + n ∧ 0 < n) ∧ s.getBytes n = none := by
  unfold State.getBytes
  simp only [State.inBytes_length]
  split_ifs with h
  · exact .inr ⟨by omega, rfl⟩
  · refine .inl ⟨by omega, ?_⟩
    have : min n (s.lInLen.toNat - s.work.rp) = n := by omega
    rw [State.inBytes_eq_map, this]

/-- Everything an operation's length check can do (40_operations.md R133). -/
theorem State.withInput_cases (s : State) (run : List Byte → State) :
    (s.lInLen.toNat ≤ s.cfg.bufSize ∧
      s.withInput run = run ((List.range s.lInLen.toNat).map fun j => s.readIn j)) ∨
    (s.cfg.bufSize < s.lInLen.toNat ∧ s.withInput run = s.raise .invalidLength) := by
  unfold State.withInput State.input
  split_ifs with h
  · exact .inr ⟨h, rfl⟩
  · exact .inl ⟨not_lt.1 h, by simp [State.inBytes_eq_map]⟩

/-! ### The read cursor -/

/-- One bit on is one position on (41_bit_cursor.md R170, R173). -/
theorem Cursor.next_position {c : Cursor} (h : c.bit ≤ 7) :
    c.next.position = c.position + 1 ∧ c.next.bit ≤ 7 := by
  unfold Cursor.next Cursor.position
  split_ifs <;> simp <;> omega

/-- The bit index stays in 7..0 (41_bit_cursor.md R170). -/
theorem Cursor.advance_bit {c : Cursor} (h : c.bit ≤ 7) (n : Nat) : (c.advance n).bit ≤ 7 := by
  induction n generalizing c with
  | zero => exact h
  | succ n ih => exact ih (Cursor.next_position h).2

/-- At most as many bits come out as were asked for (41_bit_cursor.md R171). -/
theorem State.peekBits_length_le (s : State) (n : Nat) (c : Cursor) :
    (s.peekBits n c).length ≤ n := by
  induction n generalizing c with
  | zero => simp [State.peekBits]
  | succ n ih =>
    unfold State.peekBits
    split
    · simp
    · simpa using ih _

/-! ### Codec B -/

/-- Everything an append can do (44_codec_b_commands.md R302). -/
theorem State.append_cases (s : State) (bs : List Byte) :
    (s.work.out.length + bs.length ≤ s.cfg.bufSize ∧
      s.append bs = (s.setWork { s.work with out := s.work.out ++ bs }).goto .bScan) ∨
    (s.cfg.bufSize < s.work.out.length + bs.length ∧ s.append bs = s.raise .outputOverflow) := by
  unfold State.append
  split_ifs with h
  · exact .inr ⟨h, rfl⟩
  · exact .inl ⟨not_lt.1 h, rfl⟩

/-- Everything a command with a payload can do (44_codec_b_commands.md R303 steps 3, 5 and 6). -/
theorem State.withPayload_cases (s : State) (n : Nat) (f : List Byte → List Byte) :
    ((s.work.rp + n ≤ s.lInLen.toNat ∨ n = 0) ∧ s.withPayload n f =
      (s.setWork { s.work with rp := s.work.rp + n }).append
        (f ((List.range n).map fun j => s.readIn (s.work.rp + j)))) ∨
    ((s.lInLen.toNat < s.work.rp + n ∧ 0 < n) ∧ s.withPayload n f = s.raise .truncatedStream) := by
  unfold State.withPayload
  rcases s.getBytes_cases n with ⟨h, h'⟩ | ⟨h, h'⟩
  · exact .inl ⟨h, by rw [h']⟩
  · exact .inr ⟨h, by rw [h']⟩

/-- When the offset check passes (44_codec_b_commands.md R301). -/
theorem offsetOk_iff (kind : CopyKind) (src : Int) (len outLen : Nat) :
    offsetOk kind src len outLen = true ↔
      0 ≤ src ∧ src < outLen ∧ (kind = .reverse → (len : Int) - 1 ≤ src) := by
  cases kind <;> simp [offsetOk]; omega

/-- Everything a copy can do (44_codec_b_commands.md R303 steps 4 to 6). -/
theorem State.runCopy_cases (s : State) (src : Int) :
    (offsetOk s.work.copy src s.work.len s.work.out.length = false ∧
      s.runCopy src = s.raise .invalidOffset) ∨
    (offsetOk s.work.copy src s.work.len s.work.out.length = true ∧
      s.cfg.bufSize < s.work.out.length + s.work.len ∧ s.runCopy src = s.raise .outputOverflow) ∨
    (offsetOk s.work.copy src s.work.len s.work.out.length = true ∧
      s.work.out.length + s.work.len ≤ s.cfg.bufSize ∧
      s.runCopy src = (s.setWork
        { s.work with out := copyBytes s.work.copy s.work.len src.toNat s.work.out }).goto .bScan) := by
  unfold State.runCopy
  split_ifs with h1 h2
  · exact .inr (.inl ⟨h1, h2, rfl⟩)
  · exact .inr (.inr ⟨h1, not_lt.1 h2, rfl⟩)
  · exact .inl ⟨by simpa using h1, rfl⟩

@[simp] theorem copyForward_length (f : Byte → Byte) (n src : Nat) (out : List Byte) :
    (copyForward f n src out).length = out.length + n := by
  induction n generalizing src out with
  | zero => rfl
  | succ n ih => simp only [copyForward, ih, List.length_append, List.length_singleton]; omega

@[simp] theorem copyBackward_length (n src : Nat) (out : List Byte) :
    (copyBackward n src out).length = out.length + n := by
  induction n generalizing src out with
  | zero => rfl
  | succ n ih => simp only [copyBackward, ih, List.length_append, List.length_singleton]; omega

/-- A copy command appends exactly its length (30_encoding.md R100). -/
@[simp] theorem copyBytes_length (kind : CopyKind) (len src : Nat) (out : List Byte) :
    (copyBytes kind len src out).length = out.length + len := by
  cases kind <;> simp [copyBytes]

/-! ### Codec A -/

/-- Everything the production of pairs can do (43_codec_a_rle.md R236, R250). -/
theorem State.produce_cases (s : State) (seq : List Pair) (next : Packet) :
    (seq.length = s.planeSize ∧ s.work.second = true ∧
      s.produce seq next = (s.setWork { s.work with seq := seq }).goto .aPad) ∨
    (seq.length = s.planeSize ∧ s.work.second = false ∧
      s.produce seq next = (s.setWork { s.work with seq := seq, firstSeq := seq }).goto .aMode) ∨
    (seq.length ≠ s.planeSize ∧
      s.produce seq next = (s.setWork { s.work with seq := seq, packet := next }).goto .aPacket) := by
  unfold State.produce State.endPlane
  split_ifs with h1 h2
  · exact .inl ⟨h1, h2, rfl⟩
  · exact .inr (.inl ⟨h1, by simpa using h2, rfl⟩)
  · exact .inr (.inr ⟨h1, rfl⟩)

/-- Everything the parameter checks of A_COMPRESS can answer (40_operations.md R140). -/
theorem checkCompress_ok (width mode len : Nat) :
    checkCompress width mode len = .ok () ↔
      (1 ≤ width ∧ width ≤ 15) ∧ len = Config.dataLen width ∧ mode ≠ 3 := by
  unfold checkCompress
  split_ifs <;> simp_all

@[simp] theorem planeOf_length (h : Nat) (f : Nat → Nat → Bool) : (planeOf h f).length = h := by
  simp [planeOf]

/-- A plane's bits are what it was made of. -/
theorem planeOf_at {h y x : Nat} (f : Nat → Nat → Bool) (hy : y < h) (hx : x < h) :
    (planeOf h f).at y x = f y x := by
  simp [planeOf, Plane.at, hy, hx]

@[simp] theorem pairsOf_length (pl : Plane) (w : Nat) : (pairsOf pl w).length = Config.planePairs w := by
  simp [pairsOf]

@[simp] theorem repack_length (pl0 pl1 : Plane) (w : Nat) :
    (repack pl0 pl1 w).length = Config.dataLen w := by
  simp [repack]

/-- Undoing the delta of a row gives the row back, from the same pixel on the left (42_codec_a_planes.md R198, R200). -/
theorem undeltaRow_deltaRow (c : Bool) (row : List Bool) : undeltaRow c (deltaRow c row) = row := by
  induction row generalizing c with
  | nil => rfl
  | cons b row ih =>
    have h : xor c (xor b c) = b := by cases b <;> cases c <;> rfl
    simp [deltaRow, undeltaRow, h, ih]

/-- Undoing the delta of a plane gives the plane back (42_codec_a_planes.md R200). -/
@[simp] theorem undelta_delta (pl : Plane) : undelta (delta pl) = pl := by
  simp [undelta, delta, Function.comp_def, undeltaRow_deltaRow]

end Sys2Proof.Machine
end

