-- ==== Sys2Proof/Laws/PerInstr.lean ====
section
/-! SUPPORT. The per-instruction family EncodeLength: a row's encoding has the length 30_encoding.md R111 gives it. -/

namespace Sys2Proof.Laws.EncodeLength

/-- The encoder writes exactly the bits the row takes (30_encoding.md R111). -/
def Statement (i : Instr) : Prop :=
  (encode i).length = rowBits i

theorem aCompress : Statement (.aCompress) := rfl
theorem aCompressAuto : Statement (.aCompressAuto) := rfl
theorem aDecompress : Statement (.aDecompress) := rfl
theorem bCompress : Statement (.bCompress) := rfl
theorem bDecompress : Statement (.bDecompress) := rfl
theorem opReserved0 : Statement (.opReserved0) := rfl
theorem opReserved6 : Statement (.opReserved6) := rfl
theorem opReserved7 : Statement (.opReserved7) := rfl
theorem lit (len : Nat) : Statement (.lit len) := rfl
theorem iter (len : Nat) : Statement (.iter len) := rfl
theorem alt (len : Nat) : Statement (.alt len) := rfl
theorem zero (len : Nat) : Statement (.zero len) := rfl
theorem rep (len : Nat) : Statement (.rep len) := rfl
theorem flip (len : Nat) : Statement (.flip len) := rfl
theorem reverse (len : Nat) : Statement (.reverse len) := rfl
theorem litLong (len : Nat) : Statement (.litLong len) := rfl
theorem iterLong (len : Nat) : Statement (.iterLong len) := rfl
theorem altLong (len : Nat) : Statement (.altLong len) := rfl
theorem zeroLong (len : Nat) : Statement (.zeroLong len) := rfl
theorem repLong (len : Nat) : Statement (.repLong len) := rfl
theorem flipLong (len : Nat) : Statement (.flipLong len) := rfl
theorem reverseLong (len : Nat) : Statement (.reverseLong len) := rfl
theorem longReservedFC : Statement (.longReservedFC) := rfl
theorem longReservedFD : Statement (.longReservedFD) := rfl
theorem longReservedFE : Statement (.longReservedFE) := rfl
theorem stop : Statement (.stop) := rfl
theorem offRel (d : Nat) : Statement (.offRel d) := rfl
theorem offAbs (src : Nat) : Statement (.offAbs src) := rfl
theorem aHdr (w h : Nat) : Statement (.aHdr w h) := rfl
theorem aOrd (order : Bool) : Statement (.aOrd order) := rfl
theorem aS0 : Statement (.aS0) := rfl
theorem aS1 : Statement (.aS1) := rfl
theorem aP (pair : Pair) : Statement (.aP pair) := rfl
theorem aT : Statement (.aT) := rfl
theorem aRun (w v : Nat) : Statement (.aRun w v) := by
  simp only [Statement, encode, rowBits, List.length_append, List.length_replicate, List.length_cons, bitsOfNat_length]
  omega
theorem aM0 : Statement (.aM0) := rfl
theorem aM1 : Statement (.aM1) := rfl
theorem aM2 : Statement (.aM2) := rfl
theorem aPad (n : Nat) : Statement (.aPad n) := by
  simp [Statement, encode, rowBits]

end Sys2Proof.Laws.EncodeLength
end

