-- ==== Sys2Proof/Machine/Assembly.lean ====
section
/-! DEFINITION. The notations in which the spec writes streams and host sequences (30_encoding.md R112 to R114), after
their text has been read: what a line assembles to. The machine does not use them (log 14). -/

namespace Sys2Proof.Machine

/-! ### Codec B assembly (30_encoding.md R112) -/

/-- The operand of a copy line: `@-d` or `@src`. -/
inductive AsmOffset where
  | back (d : Nat)
  | position (src : Nat)
  deriving DecidableEq, Repr

/-- A line of Codec B assembly. `long` is the suffix `.L`. -/
inductive AsmLine where
  | lit (long : Bool) (len : Nat) (bytes : List Byte)
  | iter (long : Bool) (len : Nat) (b : Byte)
  | alt (long : Bool) (len : Nat) (a b : Byte)
  | zero (long : Bool) (len : Nat)
  | copy (kind : CopyKind) (long : Bool) (len : Nat) (offset : AsmOffset)
  | stop
  | pad (k : Nat)
  deriving DecidableEq, Repr

/-- The operands a line may have: `@-d` needs `1 ≤ d ≤ 127`, `@src` needs `src ≤ 0x7FFF` (30_encoding.md R112), a length is
1 to 1024 and a literal has its L bytes (R102, R103). -/
abbrev AsmLine.ok (line : AsmLine) : Prop :=
  match line with
  | .lit _ len bytes => longLenOk len ∧ bytes.length = len
  | .iter _ len _ | .alt _ len _ _ | .zero _ len => longLenOk len
  | .copy _ _ len (.back d) => longLenOk len ∧ 1 ≤ d ∧ d ≤ Config.relMax
  | .copy _ _ len (.position src) => longLenOk len ∧ src ≤ Config.absMax
  | .stop | .pad _ => True

/-- The header of a line: short where `L ≤ 32`, unless `.L` forces the long one (30_encoding.md R112). -/
def asmHeader (long : Bool) (kind len : Nat) : List Byte :=
  if long then encodeBytes (longRow kind len) else encodeHeader kind len

/-- The offset form that the operand names (30_encoding.md R112). -/
def AsmOffset.row : AsmOffset → Instr
  | .back d => .offRel d
  | .position src => .offAbs src

/-- The bytes of a line (30_encoding.md R112, R103). -/
def AsmLine.bytes : AsmLine → List Byte
  | .lit long len bytes => asmHeader long 0 len ++ bytes
  | .iter long len b => asmHeader long 1 len ++ [b]
  | .alt long len a b => asmHeader long 2 len ++ [a, b]
  | .zero long len => asmHeader long 3 len
  | .copy kind long len offset => asmHeader long (Body.copy kind 0).kind len ++ encodeBytes offset.row
  | .stop => [Config.sentinel]
  | .pad k => List.replicate k 0

/-- A Codec B stream from its lines. -/
def assembleB (lines : List AsmLine) : List Byte :=
  lines.flatMap AsmLine.bytes

/-! ### Codec A tokens (30_encoding.md R113)

Each token is a row of the opcode table: `HDR w,h`, `ORD o`, `S0`, `S1`, `P xy`, `T`, `M0` to `M2` and `PADn` are the rows
of those names, and `RUN n` is `runToken n`. -/

/-- The bits of a Codec A stream from its tokens. -/
def assembleA (tokens : List Instr) : List Bool :=
  tokens.flatMap encode

/-! ### Host sequences (30_encoding.md R114) -/

/-- The offset of a register (10_state.md R21). -/
def Reg.offset : Reg → BitVec 18
  | .ctrl => 0x00
  | .status => 0x04
  | .op => 0x08
  | .param => 0x0C
  | .align => 0x10
  | .inLen => 0x14
  | .outLen => 0x18
  | .info => 0x1C

/-- A line of a host sequence: `W REG, v`, `WB IN[a], v`, `R REG`, and `POLL` with the number of its reads. -/
inductive HostLine where
  | write (r : Reg) (v : Word)
  | writeIn (a : Nat) (v : Byte)
  | read (r : Reg)
  | poll (reads : Nat)
  deriving DecidableEq, Repr

/-- The accesses of a line. -/
def HostLine.events : HostLine → List HostEvent
  | .write r v => [.access (.write r.offset 4 v)]
  | .writeIn a v => [.access (.write (BitVec.ofNat 18 (0x10000 + a)) 1 (v.setWidth 32))]
  | .read r => [.access (.read r.offset 4)]
  | .poll reads => List.replicate reads (.access (.read Reg.status.offset 4))

/-- The events of a host sequence. -/
def hostSequence (lines : List HostLine) : List HostEvent :=
  lines.flatMap HostLine.events

end Sys2Proof.Machine
end

