-- ==== Sys2Proof/Tests/Slice0.lean ====
section
/-! SUPPORT. The model's own tests. Expected results are those of spec/95_test_vectors.md (the vector is named in the
comment of each test) or are read off the encodings of 30_encoding.md. At the end: for each statement with hypotheses, a
state and operands that meet them. -/

namespace Sys2Proof.Tests

open Sys2Proof.Machine

/-! ### Helpers -/

/-- Bytes from their values. -/
def hex (l : List Nat) : List Byte :=
  l.map (BitVec.ofNat 8)

/-- Bits from their values. -/
def bin (l : List Nat) : List Bool :=
  l.map (· == 1)

/-- The next state, where there is one. -/
def after (a : Answer) : Option State :=
  match a with
  | .next t => some t
  | .fault _ => none
  | .refused _ => none

/-- What the host sees of an answer: STATUS, INFO and the result bytes. -/
def report (a : Answer) : Option (Nat × Nat × List Nat) :=
  (after a).map fun t => (t.statusWord.toNat, t.info.toNat,
    (List.range t.outLen.toNat).map fun k => (t.readOut k).toNat)

/-- An operation just started on `input`. -/
def started (op : Nat) (input : List Nat) (param : Nat := 0) (align : Nat := 1) : State :=
  { State.reset with
    op := BitVec.ofNat 3 op, param := BitVec.ofNat 7 param, align := BitVec.ofNat 16 align,
    inLen := BitVec.ofNat 17 input.length, inBuf := Memory.ofBytes 0 (hex input) }.start

/-- The Codec B decoder in `input` with its first `rp` bytes read and `out` built so far. -/
def scanning (input : List Nat) (rp : Nat) (out : List Nat) : State :=
  let s := (started 5 input).goto .bScan
  s.setWork { s.work with rp := rp, out := hex out }

/-- The Codec B decoder about to read the offset of a copy of `len` bytes. -/
def copying (kind : CopyKind) (len : Nat) (out : List Nat) : State :=
  let s := (scanning [] 0 out).goto .bPayload
  s.setWork { s.work with copy := kind, len := len }

/-- The Codec A decoder in a plane of width 1 of which `n` zero pairs have been produced. -/
def inPlane (second : Bool) (n : Nat) (packet : Packet) : State :=
  let s := (started 3 [0x11, 0x3C, 0x13, 0xC1]).goto .aPacket
  s.setWork { s.work with
    width := 1, second := second, packet := packet, seq := List.replicate n 0,
    firstSeq := List.replicate 32 0, rc := { byte := 1, bit := 5 } }

/-- The bytes built by the Codec B decoder after an answer. -/
def built (a : Answer) : Option (List Nat) :=
  (after a).map fun t => t.work.out.map (·.toNat)

/-- The phase and the number of pairs after an answer. -/
def place (a : Answer) : Option (Phase × Nat) :=
  (after a).map fun t => (t.phase, t.work.seq.length)

/-- STATUS after an answer. -/
def status (a : Answer) : Option Nat :=
  (after a).map fun t => t.statusWord.toNat

/-- An interface read or write of a state that is not in reset. -/
def host (a : HostAccess) (s : State) : Option State :=
  after (hostStep (.access a) s)

/-! ### Well-formedness: a term that each check refuses, and the ends of each range -/

theorem test_wf_refuses_short_length_0_and_33 :
    ∀ n ∈ [0, 33], ∀ i ∈ [Instr.lit n, .iter n, .alt n, .zero n, .rep n, .flip n, .reverse n],
      ¬ i.wf Config.hw := by
  simp [Instr.wf, Config.shortLen]

theorem test_wf_refuses_long_length_0_and_1025 :
    ∀ n ∈ [0, 1025], ∀ i ∈ [Instr.litLong n, .iterLong n, .altLong n, .zeroLong n, .repLong n,
      .flipLong n, .reverseLong n], ¬ i.wf Config.hw := by
  simp [Instr.wf, Config.maxLen]

theorem test_wf_refuses_offsets_out_of_range :
    ¬ (Instr.offRel 128).wf Config.hw ∧ ¬ (Instr.offAbs 0x8000).wf Config.hw := by decide

theorem test_wf_refuses_codec_a_operands_out_of_range :
    ∀ i ∈ [Instr.aHdr 16 0, .aHdr 0 16, .aP 0, .aRun 16 0, .aRun 3 16, .aPad 8],
      ¬ i.wf Config.hw := by
  simp [Instr.wf, Config.hw]

theorem test_wf_accepts_the_ends_of_the_ranges :
    ∀ i ∈ [Instr.lit 1, .reverse 32, .litLong 1, .reverseLong 1024, .offRel 0, .offRel 127, .offAbs 0,
      .offAbs 0x7FFF, .aHdr 15 15, .aHdr 0 0, .aP 3, .aRun 15 65535, .aRun 0 0, .aPad 7],
      i.wf Config.hw := by
  simp [Instr.wf, shortLenOk, longLenOk, Config.shortLen, Config.maxLen, Config.relMax, Config.absMax,
    Config.hw]

/-! ### Decoding: words written out from the encodings, for every row of the table -/

/-- 30_encoding.md R90, R107. -/
theorem test_decode_operation_codes :
    (List.range 8).map decodeOp = [.opReserved0, .aCompress, .aCompressAuto, .aDecompress, .bCompress,
      .bDecompress, .opReserved6, .opReserved7] := by decide

/-- The header `bytes` decodes to `i` and leaves `rest` bytes. -/
def headerIs (bytes : List Nat) (i : Instr) (rest : Nat) : Bool :=
  match decode Config.hw .bHeader (bitsOfBytes (hex bytes)) with
  | .ok (j, left) => j == i && left.length == 8 * rest
  | .error _ => false

/-- 30_encoding.md R101: kind in bits 7:5, L − 1 in bits 4:0. -/
theorem test_decode_short_headers :
    headerIs [0x04] (.lit 5) 0 ∧ headerIs [0x23, 7] (.iter 4) 1 ∧ headerIs [0x44] (.alt 5) 0 ∧
      headerIs [0x7F] (.zero 32) 0 ∧ headerIs [0x84] (.rep 5) 0 ∧ headerIs [0xA1] (.flip 2) 0 ∧
      headerIs [0xC2] (.reverse 3) 0 := by decide

/-- 30_encoding.md R102: 111, kind in bits 4:2, L − 1 in bits 1:0 and the second byte. -/
theorem test_decode_long_headers :
    headerIs [0xE0, 0x20] (.litLong 33) 0 ∧ headerIs [0xE5, 0xFF] (.iterLong 512) 0 ∧
      headerIs [0xEA, 0x00] (.altLong 513) 0 ∧ headerIs [0xEC, 0x63, 9] (.zeroLong 100) 1 ∧
      headerIs [0xF3, 0xFF] (.repLong 1024) 0 ∧ headerIs [0xF5, 0x2B] (.flipLong 300) 0 ∧
      headerIs [0xFB, 0xFF] (.reverseLong 1024) 0 := by decide

/-- 30_encoding.md R105, R106; 95_test_vectors.md B9, B10. -/
theorem test_decode_escape_headers :
    headerIs [0xFC] .longReservedFC 0 ∧ headerIs [0xFD] .longReservedFD 0 ∧
      headerIs [0xFE] .longReservedFE 0 ∧ headerIs [0xFF] .stop 0 := by decide

/-- A bit sequence decodes to `i` in a space and leaves `rest` bits. -/
def bitsAre (space : Space) (bits : List Bool) (i : Instr) (rest : Nat) : Bool :=
  match decode Config.hw space bits with
  | .ok (j, left) => j == i && left.length == rest
  | .error _ => false

/-- 30_encoding.md R104; 95_test_vectors.md B12, B13. -/
theorem test_decode_offsets :
    bitsAre .bOffset (bitsOfBytes (hex [0x83])) (.offRel 3) 0 ∧
      bitsAre .bOffset (bitsOfBytes (hex [0x00, 0x05])) (.offAbs 5) 0 ∧
      bitsAre .bOffset (bitsOfBytes (hex [0x7F, 0xFE])) (.offAbs 0x7FFE) 0 := by decide

/-- 30_encoding.md R92 to R98; 95_test_vectors.md R1. -/
theorem test_decode_codec_a_tokens :
    bitsAre .aHdr (bitsOfBytes (hex [0x1F])) (.aHdr 1 15) 0 ∧
      bitsAre .aOrd (bin [1]) (.aOrd true) 0 ∧ bitsAre .aOrd (bin [0]) (.aOrd false) 0 ∧
      bitsAre .aStart (bin [0]) .aS0 0 ∧ bitsAre .aStart (bin [1]) .aS1 0 ∧
      bitsAre .aData (bin [1, 0]) (.aP 2) 0 ∧ bitsAre .aData (bin [0, 0, 1]) .aT 1 ∧
      bitsAre .aRle (bin [1, 1, 1, 1, 0, 0, 0, 0, 0, 1]) (.aRun 4 1) 0 ∧
      bitsAre .aMode (bin [0, 1]) .aM0 1 ∧ bitsAre .aMode (bin [1, 0]) .aM1 0 ∧
      bitsAre .aMode (bin [1, 1]) .aM2 0 ∧ bitsAre .aPad (bin [0, 0, 0]) (.aPad 3) 0 := by decide

/-- The error that decoding ends in. -/
def errorOf (space : Space) (bits : List Bool) : Option Err :=
  match decode Config.hw space bits with
  | .ok _ => none
  | .error e => some e

/-- 95_test_vectors.md R5, R6, B11. -/
theorem test_decode_errors :
    errorOf .aRle (List.replicate 16 true) = some .runLengthOverflow ∧
      errorOf .aRle (bin [1, 1, 1]) = some .truncatedStream ∧
      errorOf .bHeader (bitsOfBytes (hex [0xE3])) = some .truncatedStream := by decide

/-- The table's numbering of bits (log 6): operation codes 1 to 7, then header bytes, the second byte above the first. -/
theorem test_decode_table_words :
    decodeTableWord 8 3 = some .aDecompress ∧ decodeTableWord 8 0x62 = some (.zero 3) ∧
      decodeTableWord 16 0x63EC = some (.zeroLong 100) ∧ decodeTableWord 8 0xFF = some .stop := by decide

/-- 95_test_vectors.md B1 to B7, B12 to B15. -/
theorem test_encode_headers_and_offsets :
    encodeHeader 0 1 = hex [0x00] ∧ encodeHeader 0 33 = hex [0xE0, 0x20] ∧
      encodeHeader 5 300 = hex [0xF5, 0x2B] ∧ encodeHeader 6 1024 = hex [0xFB, 0xFF] ∧
      encodeOffset 200 5 = hex [0x00, 0x05] ∧ encodeOffset 0x9000 0x8F90 = hex [0xF0] := by decide

/-! ### Codec B rows -/

/-- 95_test_vectors.md B20: `02 41 42 43 FF`. -/
theorem test_lit : built (exec (.lit 3) (scanning [2, 0x41, 0x42, 0x43, 0xFF] 1 [])) =
    some [0x41, 0x42, 0x43] := by decide

/-- 95_test_vectors.md B22: `E0 00 AA FF`. -/
theorem test_lit_long : built (exec (.litLong 1) (scanning [0xE0, 0, 0xAA, 0xFF] 2 [])) =
    some [0xAA] := by decide

/-- 95_test_vectors.md B39a: a missing payload is TRUNCATED_STREAM. -/
theorem test_lit_without_payload : status (exec (.lit 1) (scanning [0] 1 [])) = some 0x2A06 := by decide

/-- 95_test_vectors.md B23: `23 07 FF`. -/
theorem test_iter : built (exec (.iter 4) (scanning [0x23, 7, 0xFF] 1 [])) = some [7, 7, 7, 7] := by
  decide

/-- 95_test_vectors.md B59: `E4 4B 11` is 76 times 11. -/
theorem test_iter_long : built (exec (.iterLong 76) (scanning [0xE4, 0x4B, 0x11] 2 [])) =
    some (List.replicate 76 0x11) := by decide

/-- 95_test_vectors.md B25: `44 AA 55 FF`. -/
theorem test_alt : built (exec (.alt 5) (scanning [0x44, 0xAA, 0x55, 0xFF] 1 [])) =
    some [0xAA, 0x55, 0xAA, 0x55, 0xAA] := by decide

/-- 95_test_vectors.md B26: with L = 1 the second byte is read and not used. -/
theorem test_alt_reads_both_bytes :
    (after (exec (.alt 1) (scanning [0x40, 0xAA, 0x55, 0xFF] 1 []))).map (fun t => t.work.rp) = some 3 ∧
      built (exec (.alt 1) (scanning [0x40, 0xAA, 0x55, 0xFF] 1 [])) = some [0xAA] := by decide

/-- 44_codec_b_commands.md R295, in the long form of 30_encoding.md R102. -/
theorem test_alt_long : built (exec (.altLong 3) (scanning [0xE8, 2, 0xAA, 0x55] 2 [])) =
    some [0xAA, 0x55, 0xAA] := by decide

/-- 95_test_vectors.md B27: `62 FF`. -/
theorem test_zero : built (exec (.zero 3) (scanning [0x62, 0xFF] 1 [9])) = some [9, 0, 0, 0] := by decide

/-- 40_operations.md R160: `EC 63 FF`. -/
theorem test_zero_long : built (exec (.zeroLong 100) (scanning [0xEC, 0x63, 0xFF] 2 [])) =
    some (List.replicate 100 0) := by decide

/-- 95_test_vectors.md B28: `84 83` after 01 02 03 is an overlapping REPEAT. -/
theorem test_rep : built (Sys2Proof.core.run 2 (scanning [2, 1, 2, 3, 0x84, 0x83, 0xFF] 4 [1, 2, 3])) =
    some [1, 2, 3, 1, 2, 3, 1, 2] := by decide

/-- 44_codec_b_commands.md R297 with a long header: `F0 04 83`. -/
theorem test_rep_long :
    built (Sys2Proof.core.run 2 (scanning [0xF0, 4, 0x83] 0 [1, 2, 3])) =
      some [1, 2, 3, 1, 2, 3, 1, 2] := by decide

/-- 95_test_vectors.md B33: `A1 82` after 01 80, an overlapping FLIP. -/
theorem test_flip : built (Sys2Proof.core.run 2 (scanning [0xA1, 0x82] 0 [1, 0x80])) =
    some [1, 0x80, 0x80, 1] := by decide

/-- 44_codec_b_commands.md R298 with a long header: `F4 01 82`. -/
theorem test_flip_long : built (Sys2Proof.core.run 2 (scanning [0xF4, 1, 0x82] 0 [1, 0x80])) =
    some [1, 0x80, 0x80, 1] := by decide

/-- 95_test_vectors.md B34: `C2 81` after 01 02 03. -/
theorem test_reverse : built (Sys2Proof.core.run 2 (scanning [0xC2, 0x81] 0 [1, 2, 3])) =
    some [1, 2, 3, 3, 2, 1] := by decide

/-- 44_codec_b_commands.md R299 with a long header: `F8 02 81`. -/
theorem test_reverse_long : built (Sys2Proof.core.run 2 (scanning [0xF8, 2, 0x81] 0 [1, 2, 3])) =
    some [1, 2, 3, 3, 2, 1] := by decide

/-- 95_test_vectors.md B30: distance 1. -/
theorem test_off_rel : built (exec (.offRel 1) (copying .rep 2 [0xAA])) = some [0xAA, 0xAA, 0xAA] := by
  decide

/-- 95_test_vectors.md B37: a REVERSE of 3 from position 0 is INVALID_OFFSET. -/
theorem test_off_rel_before_the_start :
    status (exec (.offRel 1) (copying .reverse 3 [5])) = some 0x2B06 := by decide

/-- 95_test_vectors.md B29: an absolute source. -/
theorem test_off_abs : built (exec (.offAbs 1) (copying .rep 3 [1, 2, 3])) = some [1, 2, 3, 2, 3, 2] := by
  decide

/-- 44_codec_b_commands.md R301: a source at the end of the output is INVALID_OFFSET. -/
theorem test_off_abs_at_the_end : status (exec (.offAbs 3) (copying .rep 1 [1, 2, 3])) = some 0x2B06 := by
  decide

/-- 95_test_vectors.md B36: END completes, and the bytes after it are not read. -/
theorem test_end : report (exec .stop (scanning [0xFF, 0x12, 0x34] 1 [7, 8])) = some (2, 0, [7, 8]) := by
  decide

/-- 95_test_vectors.md B9, H14. -/
theorem test_reserved_headers :
    status (exec .longReservedFC (scanning [0xFC] 1 [])) = some 0x2C06 ∧
      status (exec .longReservedFD (scanning [0xFD] 1 [])) = some 0x2C06 ∧
      status (exec .longReservedFE (scanning [0xFE] 1 [])) = some 0x2C06 := by decide

/-! ### Codec A rows -/

/-- 95_test_vectors.md A20, H9. -/
theorem test_header_not_square : status (exec (.aHdr 1 2) (started 3 [0x12])) = some 0x2706 := by decide

/-- 95_test_vectors.md A21, H8. -/
theorem test_header_zero : status (exec (.aHdr 0 0) (started 3 [0])) = some 0x1606 := by decide

/-- 43_codec_a_rle.md R250: after the order bit a plane starts. -/
theorem test_order_and_start_bits :
    place (exec (.aOrd true) (inPlane false 0 .rle)) = some (.aStart, 0) ∧
      place (exec .aS0 (inPlane false 5 .rle)) = some (.aPacket, 0) ∧
      (after (exec .aS1 (inPlane false 5 .rle))).map (fun t => t.work.packet) = some .data := by decide

/-- 43_codec_a_rle.md R236: a plane of 32 pairs ends at its 32nd. -/
theorem test_pair : place (exec (.aP 3) (inPlane false 30 .data)) = some (.aPacket, 31) ∧
    place (exec (.aP 3) (inPlane false 31 .data)) = some (.aMode, 32) := by decide

/-- 43_codec_a_rle.md R237: a terminator produces nothing, and an RLE packet is next. -/
theorem test_terminator :
    (after (exec .aT (inPlane false 4 .data))).map (fun t => (t.work.packet, t.work.seq.length)) =
      some (.rle, 4) := by decide

/-- 95_test_vectors.md A1, A26: RUN 32 fills a plane of width 1, RUN 33 is DATA_OVERFLOW. -/
theorem test_run :
    place (exec (.aRun 4 1) (inPlane true 0 .rle)) = some (.aPad, 32) ∧
      status (exec (.aRun 4 2) (inPlane true 0 .rle)) = some 0x2906 := by decide

/-- 43_codec_a_rle.md R240: the mode field comes before the second plane. -/
theorem test_modes :
    (after (exec .aM0 (inPlane false 32 .rle))).map (fun t => (t.work.mode, t.work.second)) = some (0, true) ∧
      (after (exec .aM1 (inPlane false 32 .rle))).map (fun t => (t.work.mode, t.phase)) =
        some (1, .aStart) ∧
      (after (exec .aM2 (inPlane false 32 .rle))).map (fun t => t.work.mode) = some 2 := by decide

/-- 95_test_vectors.md A29: two planes of zeros are 16 zero bytes, whatever the padding. -/
theorem test_padding : report (exec (.aPad 0) (inPlane true 32 .rle)) =
    some (2, 1, List.replicate 16 0) := by decide

/-! ### Operations -/

/-- 95_test_vectors.md A13: 16 times FF, mode 1. -/
theorem test_a_compress : report (exec .aCompress (started 1 (List.replicate 16 0xFF) 0x21)) =
    some (2, 0x21, [0x11, 0x6A, 0xAA, 0x8E, 0x99, 0xE0, 0x80]) := by decide +kernel

/-- 95_test_vectors.md A33: the width is checked before the mode. -/
theorem test_a_compress_width_first :
    status (exec .aCompress (started 1 (List.replicate 16 0) 0x60)) = some 0x1306 := by decide

/-- 95_test_vectors.md A19e. -/
theorem test_a_compress_auto : report (exec .aCompressAuto (started 2 (List.range 16) 1)) =
    some (2, 0x21, [0x11, 0x38, 0xD7, 0xE8, 0x39, 0x0E, 0x67, 0x4A, 0xAA, 0xA8]) := by decide +kernel

/-- 95_test_vectors.md A35: no width fits an empty input. -/
theorem test_a_compress_auto_empty : status (exec .aCompressAuto (started 2 [])) = some 0x1306 := by decide

/-- 95_test_vectors.md A29: eight tokens, the operation code and the padding. -/
theorem test_a_decompress : report (Sys2Proof.core.run 9 (started 3 [0x11, 0x3C, 0x13, 0xC1, 0xFF, 0xEE])) =
    some (2, 1, List.replicate 16 0) := by decide

/-- 95_test_vectors.md B48. -/
theorem test_b_compress : report (exec .bCompress (started 4 [1, 2, 3, 4, 1, 2, 3, 4, 1, 2, 3, 4])) =
    some (2, 0, [3, 1, 2, 3, 4, 0x87, 0x84, 0xFF]) := by decide

/-- 95_test_vectors.md B55, B56, B57; B63, H7. -/
theorem test_b_compress_alignment :
    (∀ align ∈ [4, 8], report (exec .bCompress (started 4 [1, 2, 3, 1, 2, 3, 1, 2] 0 align)) =
      some (2, 0, [2, 1, 2, 3, 0x84, 0x83, 0xFF, 0])) ∧
    report (exec .bCompress (started 4 [1, 2, 3, 1, 2, 3, 1, 2] 0 3)) =
      some (2, 0, [2, 1, 2, 3, 0x84, 0x83, 0xFF, 0, 0]) ∧
    status (exec .bCompress (started 4 [1, 2] 0 0)) = some 0x1506 := by decide

/-- 95_test_vectors.md B34: four rows and the operation code. -/
theorem test_b_decompress :
    report (Sys2Proof.core.run 5 (started 5 [2, 1, 2, 3, 0xC2, 0x81, 0xFF])) =
      some (2, 0, [1, 2, 3, 3, 2, 1]) := by decide

/-- 95_test_vectors.md H2, H3. -/
theorem test_reserved_operations :
    status (exec .opReserved0 (started 0 [])) = some 0x1106 ∧
      status (exec .opReserved6 (started 6 [])) = some 0x1106 ∧
      status (exec .opReserved7 (started 7 [])) = some 0x1106 := by decide

/-- 95_test_vectors.md B79: with P_LIT_CAP = 4 the optimizer absorbs a copy. -/
theorem test_optimizer_absorbs :
    let data := hex [0, 1, 3, 2, 2, 2, 3]
    serialize data (optimize (matchAll { Config.hw with litCap := 4 } data)) 1 =
      hex [0x60, 5, 1, 3, 2, 2, 2, 3, 0xFF] := by decide

/-- 95_test_vectors.md B71: a merge past 1024 splits. -/
theorem test_optimizer_splits :
    optimize [⟨.iter 7, 600, 0⟩, ⟨.iter 7, 600, 600⟩] = [⟨.iter 7, 1024, 0⟩, ⟨.iter 7, 176, 1024⟩] := by
  decide

/-- 95_test_vectors.md P1, P6, P8. -/
theorem test_delta_rows :
    deltaRow false (bin [1, 1, 1, 1, 0, 0, 0, 0]) = bin [1, 0, 0, 0, 1, 0, 0, 0] ∧
      deltaRow false (bin [0, 0, 1, 1, 1, 1, 0, 0]) = bin [0, 0, 1, 0, 0, 0, 1, 0] ∧
      nibbleDelta false 0xF = 8 ∧ nibbleUndelta true 0 = 0xF := by decide

/-! ### The host and the step -/

/-- 95_test_vectors.md H9, H16: an error, then a write to STATUS adds PROTO. -/
theorem test_write_to_status_sets_proto :
    ((after (exec (.aHdr 1 2) (started 3 [0x12]))).bind (host (.write 4 4 0))).map
      (fun t => t.statusWord.toNat) = some 0x270E := by decide

/-- 70_reset_and_hazards.md R400, 93_implementation_defined.md U4. -/
theorem test_access_in_reset_is_refused :
    after (step { State.reset with rst := true, events := [.access (.read 0 4)] }) = none := by decide

/-- 10_state.md R31: a byte written to IN_BUF is read back. -/
theorem test_in_buf : ((host (.write 0x10007 1 0x1AB) State.reset).bind (host (.read 0x10007 1))).map
    (fun t => t.rdata.toNat) = some 0xAB := by decide

/-- 00_scope.md R10: with P_BUF_SIZE = 8192 the offset 0x12000 is unmapped and an input of 8193 bytes is
INVALID_LENGTH. -/
theorem test_small_buffer :
    let s := { State.reset with cfg := { Config.hw with bufSize := 8192 } }
    (host (.write 0x12000 1 7) s).map (fun t => (t.proto, t.inBuf)) = some (true, []) ∧
      (host (.write 0x11FFF 1 7) s).map (fun t => (t.proto, t.inBuf)) = some (false, [(8191, 7)]) ∧
      status (exec .bDecompress { s with lInLen := 8193 }) = some 0x1206 := by decide

/-- `withFetchWord` places an operation code so that the next step runs it (log 5). -/
theorem test_fetch_word_runs_an_operation :
    step (State.reset.withFetchWord 8 6) = exec .opReserved6 (State.reset.withFetchWord 8 6) := by rfl

/-- `withFetchWord` places a header so that the next step runs it on the zeros after it (log 5). -/
theorem test_fetch_word_runs_a_header : built (step (State.reset.withFetchWord 8 0x42)) = some [0, 0, 0] := by
  decide

/-! ### The notations of 30_encoding.md R112 to R114 -/

/-- 95_test_vectors.md program 1: the ten lines and their 21 bytes. -/
theorem test_program_1_assembles :
    assembleB [.lit false 3 [1, 2, 3], .iter false 4 7, .alt false 5 0xAA 0x55, .zero false 3,
      .copy .rep false 3 (.back 15), .copy .flip false 2 (.position 0),
      .copy .reverse false 3 (.back 18), .zero false 40, .stop, .pad 1] =
      hex [2, 1, 2, 3, 0x23, 7, 0x44, 0xAA, 0x55, 0x62, 0x82, 0x8F, 0xA1, 0, 0, 0xC2, 0x92, 0xEC, 0x27,
        0xFF, 0] := by decide

/-- 95_test_vectors.md program 2: the tokens and their bytes. -/
theorem test_program_2_tokens :
    pack (assembleA [.aHdr 1 1, .aOrd false, .aS1, .aP 2, .aT, runToken 6, .aP 3, .aT, runToken 23, .aP 1,
      .aM0, .aS0, runToken 16, .aP 2, .aT, runToken 15, .aPad 2]) =
      hex [0x11, 0x62, 0xF3, 0xA1, 0x38, 0x63, 0x80] := by decide

/-- 95_test_vectors.md program 4, to the error: five writes, then two moves of the engine. -/
theorem test_program_4_error :
    status (Sys2Proof.core.run 7 { State.reset with
      events := hostSequence [.writeIn 0 0x12, .writeIn 1 0, .write .inLen 2, .write .op 3,
        .write .ctrl 5] }) = some 0x2706 := by decide

/-! ### Witnesses: a state and operands that meet the hypotheses of each statement -/

/-- A Codec B decoder with `n` zero bytes built and a copy waiting, `len` input bytes left. -/
def holding (kind : CopyKind) (n copyLen len : Nat) : State :=
  { State.reset with
    phase := .bScan, lInLen := BitVec.ofNat 17 len, inLen := BitVec.ofNat 17 len,
    work := { Work.init with out := List.replicate n 0, copy := kind, len := copyLen } }

theorem holding_length (kind : CopyKind) (n copyLen len : Nat) :
    (holding kind n copyLen len).work.out.length = n :=
  List.length_replicate

theorem witness_DecodeUndoesEncode :
    ((Instr.aPad 7).wf Config.hw ∧ (Instr.aPad 7).space = .aPad) ∧
      ((Instr.aRun 15 65535).wf Config.hw ∧ (Instr.aRun 15 65535).space ≠ .aPad) := by decide

theorem witness_EncodeUndoesDecode :
    decode Config.hw .bHeader (bitsOfBytes (hex [0xEC, 0x63, 9])) =
      .ok (.zeroLong 100, bitsOfBytes (hex [9])) := by rfl

theorem witness_HeaderBytesDecode :
    (hex [0xFF]).map (·.toNat) = [0xFF] ∧ (∀ n ∈ (hex [0x00, 0xDF]).map (·.toNat), n < 0xE0) ∧
      (∀ n ∈ (hex [0xE0, 0xFB]).map (·.toNat), 0xE0 ≤ n ∧ n < 0xFC) ∧
      ∀ n ∈ (hex [0xFC, 0xFE]).map (·.toNat), 0xFC ≤ n ∧ n < 0xFF := by decide

theorem witness_ModeFieldReadsBack : (0 ≤ 2 ∧ 2 ≤ 2) ∧ readMode [true] = .error .truncatedStream :=
  ⟨by decide, rfl⟩

/-- A Codec A decoder inside its first plane. -/
theorem witness_StepKeepsTheInvariant :
    (inPlane false 0 .rle).Inv ∧ ∃ t, step (inPlane false 0 .rle) = .next t := by
  refine ⟨⟨by decide, ⟨by decide, by decide, by decide, by decide, by decide, by decide, by decide, ?_⟩,
    ⟨by decide, ?_, by decide, by decide, by decide, by decide⟩,
    ⟨by decide, ?_, by decide, by decide, ?_, by decide, by decide, ?_, by decide, by decide⟩⟩,
    _, rfl⟩
  · exact fun h => absurd h (by decide)
  · exact fun h => absurd h (by decide)
  · exact fun h => absurd h (by decide)
  · exact fun h => absurd h (by decide)
  · exact fun h => absurd h (by decide)

/-- The first and the last register. -/
theorem witness_ResetInputAbortsAndReleases : regAt 0x00 = some .ctrl ∧ regAt 0x1C = some .info := by
  decide

/-- The first decoding bits of each phase of the decoders. -/
theorem witness_EngineRunsTheDecodedRow :
    (started 3 [0x11]).events = [] ∧ (started 3 [0x11]).phase = .dispatch ∧
      decode State.reset.cfg .bHeader (scanning [0xFF] 0 []).windowB = .ok (.stop, []) ∧
      decode State.reset.cfg .bOffset ((scanning [0x81] 0 [1]).goto .bPayload).windowB = .ok (.offRel 1, []) ∧
      (decode State.reset.cfg .aHdr ((started 3 [0x11]).goto .aHdr).windowA = .ok (.aHdr 1 1, [])) ∧
      (decode State.reset.cfg .aOrd ((started 3 [0x80]).goto .aOrd).windowA =
        .ok (.aOrd true, List.replicate 7 false)) ∧
      (decode State.reset.cfg .aStart ((started 3 [0x80]).goto .aStart).windowA =
        .ok (.aS1, List.replicate 7 false)) ∧
      (decode State.reset.cfg .aMode ((started 3 [0xC0]).goto .aMode).windowA =
        .ok (.aM2, List.replicate 6 false)) ∧
      (decode State.reset.cfg .aRle ((started 3 [0x40]).goto .aPacket).windowA =
        .ok (.aRun 0 1, List.replicate 6 false)) ∧
      ((started 3 [0]).goto .aPad).phase = .aPad :=
  ⟨rfl, rfl, rfl, rfl, rfl, rfl, rfl, rfl, rfl, rfl⟩

/-- Streams that end, or overflow, where each phase reads. -/
theorem witness_EngineReportsFetchErrors :
    decode State.reset.cfg .bHeader (scanning [] 0 []).windowB = .error .truncatedStream ∧
      decode State.reset.cfg .bOffset ((scanning [5] 0 [1]).goto .bPayload).windowB = .error .truncatedStream ∧
      decode State.reset.cfg .aHdr ((started 3 []).goto .aHdr).windowA = .error .truncatedStream ∧
      decode State.reset.cfg .aOrd ((started 3 []).goto .aOrd).windowA = .error .truncatedStream ∧
      decode State.reset.cfg .aStart ((started 3 []).goto .aStart).windowA = .error .truncatedStream ∧
      decode State.reset.cfg .aMode ((started 3 []).goto .aMode).windowA = .error .truncatedStream ∧
      decode State.reset.cfg .aRle ((started 3 [0xFF, 0xFF]).goto .aPacket).windowA =
        .error .runLengthOverflow :=
  ⟨rfl, rfl, rfl, rfl, rfl, rfl, rfl⟩

theorem witness_HostAndEngineTakeTurns :
    (State.reset.events = [] ∧ State.reset.phase = .idle) ∧
      (∃ s : State, s.events = [.reset true] ∧ s.phase = .idle) ∧
      (∃ s : State, s.events = [.reset false] ∧ s.rst = true) ∧
      ∃ s : State, s.events = [.reset true] ∧ s.phase ≠ .idle ∧ s.rst = false :=
  ⟨by decide, ⟨{ State.reset with events := [.reset true] }, by decide⟩,
    ⟨{ State.reset with events := [.reset false], rst := true }, by decide⟩,
    ⟨{ started 5 [] with events := [.reset true] }, by decide⟩⟩

/-- The last command that fits: 1024 bytes after 64512. -/
theorem witness_LitAppendsItsPayload :
    let s := holding .rep 64512 0 1024
    s.work.rp + 1024 ≤ s.lInLen.toNat ∧ s.work.out.length + 1024 ≤ s.cfg.bufSize := by
  simp only [holding_length]
  decide

theorem witness_IterRepeatsOneByte :
    let s := holding .rep 64512 0 1
    s.work.rp + 1 ≤ s.lInLen.toNat ∧ s.work.out.length + 1024 ≤ s.cfg.bufSize := by
  simp only [holding_length]
  decide

theorem witness_AltAlternatesTwoBytes :
    let s := holding .rep 65535 0 2
    s.work.rp + 2 ≤ s.lInLen.toNat ∧ s.work.out.length + 1 ≤ s.cfg.bufSize := by
  simp only [holding_length]
  decide

theorem witness_ZeroAppendsZeroBytes :
    (holding .rep 64512 0 0).work.out.length + 1024 ≤ (holding .rep 64512 0 0).cfg.bufSize := by
  simp only [holding_length]
  decide

theorem witness_RepeatCopiesForward :
    let s := holding .rep 64512 1024 0
    s.work.copy = .rep ∧ 64511 < s.work.out.length ∧
      s.work.out.length + s.work.len ≤ s.cfg.bufSize := by
  simp only [holding_length]
  decide

theorem witness_FlipCopiesReversedBits :
    let s := holding .flip 64512 1024 0
    s.work.copy = .flip ∧ 64511 < s.work.out.length ∧
      s.work.out.length + s.work.len ≤ s.cfg.bufSize := by
  simp only [holding_length]
  decide

/-- A REVERSE that reads back to position 0. -/
theorem witness_ReverseCopiesBackward :
    let s := holding .reverse 64512 1024 0
    s.work.copy = .reverse ∧ 1023 < s.work.out.length ∧ s.work.len ≤ 1023 + 1 ∧
      s.work.out.length + s.work.len ≤ s.cfg.bufSize := by
  simp only [holding_length]
  decide

/-- The nearest source on the wrong side of each bound: distance 4 and position 3 of 3 bytes, and a REVERSE of 3 from
position 1. -/
theorem witness_OffsetOutsideOutputRaises :
    let s := copying .reverse 3 [1, 2, 3]
    s.work.out.length < 4 ∧ s.work.out.length ≤ 3 ∧ s.work.copy = .reverse ∧ 1 + 1 < s.work.len ∧
      2 ≤ s.work.out.length ∧ s.work.out.length - 2 + 1 < s.work.len := by decide

/-- One byte past a full output. -/
theorem witness_OutputPastBufferRaises :
    let s := holding .reverse 65536 1 2
    s.cfg.bufSize < s.work.out.length + 1 ∧ s.work.rp + 1 ≤ s.lInLen.toNat ∧
      s.work.rp + 2 ≤ s.lInLen.toNat ∧ s.work.len = 1 ∧ 0 < s.work.out.length ∧
      (s.work.copy = .reverse → 1 ≤ 0 + 1) := by
  simp only [holding_length]
  decide

theorem witness_MissingPayloadRaises :
    (1 ≤ 1 ∧ (scanning [0] 1 []).lInLen.toNat < (scanning [0] 1 []).work.rp + 1) ∧
      (scanning [0x44, 7] 1 []).lInLen.toNat < (scanning [0x44, 7] 1 []).work.rp + 2 := by decide

theorem witness_EndReportsTheOutput :
    (holding .rep 65536 0 0).cfg.legal ∧
      (holding .rep 65536 0 0).work.out.length ≤ (holding .rep 65536 0 0).cfg.bufSize := by
  simp only [holding_length]
  decide

/-- `C2 81` with 3 bytes built: kind 6, length 3, distance 1. -/
theorem witness_CopyCommandRunsFromTheStream :
    let s := scanning [0xC2, 0x81] 0 [1, 2, 3]
    s.events = [] ∧ s.phase = .bScan ∧ s.work.rp + 2 ≤ s.lInLen.toNat ∧
      (s.readIn s.work.rp).toNat = 32 * 6 + (3 - 1) ∧ (s.readIn (s.work.rp + 1)).toNat = 0x80 + 1 ∧
      1 ≤ s.work.out.length ∧ 3 ≤ s.work.out.length - 1 + 1 ∧
      s.work.out.length + 3 ≤ s.cfg.bufSize := by decide

theorem witness_RunningRowsTouchOnlyTheEngine :
    ∃ t, exec .aS0 (started 3 []) = .next t ∧ t.phase ≠ .idle :=
  ⟨_, rfl, by decide⟩

theorem witness_CompletionWritesOnlyTheResult :
    ∃ t, exec .stop (scanning [] 0 [7]) = .next t ∧ t.phase = .idle :=
  ⟨_, rfl, by decide⟩

theorem witness_HeaderTokenChecksTheSize : (1 ≠ 2 ∧ 15 ≠ 0) ∧ (1 ≤ 1 ∧ 1 ≤ 15) := by decide

/-- A plane of 32 pairs that gets its 31st, its 32nd as the first and as the second plane, and its 33rd. -/
theorem witness_PacketsExtendThePlane :
    let s := fun n : Nat => inPlane false n .rle
    (∃ w v, Instr.aRun 0 0 = .aRun w v ∧ [0] = List.replicate (2 ^ (w + 1) - 1 + v) (0 : Pair)) ∧
      ((s 30).work.seq ++ [0]).length < 32 * ((s 30).work.width * (s 30).work.width) ∧
      ((s 31).work.seq ++ [0]).length = 32 * ((s 31).work.width * (s 31).work.width) ∧
      (s 31).work.second = false ∧ (inPlane true 31 .rle).work.second = true ∧
      32 * ((s 32).work.width * (s 32).work.width) < ((s 32).work.seq ++ [0]).length :=
  ⟨⟨0, 0, rfl, rfl⟩, by decide, by decide, by decide, by decide, by decide⟩

theorem witness_PaddingEndsTheDecode :
    (inPlane true 32 .rle).cfg.legal ∧ (inPlane true 32 .rle).work.width ≤ 15 := by decide

/-- Width 0, a length that is one short, mode 3, and good parameters. -/
theorem witness_CompressReportsTheStream :
    let s := fun (n param : Nat) => started 1 (List.replicate n 0) param
    ((s 16 0).cfg.legal ∧ (s 16 0).lInLen.toNat ≤ (s 16 0).cfg.bufSize) ∧ paramWidth (s 16 0).lParam = 0 ∧
      (paramWidth (s 15 1).lParam = 1 ∧ (s 15 1).lInLen.toNat ≠ 16 * (1 * 1)) ∧
      (paramWidth (s 16 0x61).lParam = 1 ∧ (s 16 0x61).lInLen.toNat = 16 * (1 * 1) ∧
        paramMode (s 16 0x61).lParam = 3) ∧
      paramWidth (s 16 1).lParam = 1 ∧ (s 16 1).lInLen.toNat = 16 * (1 * 1) ∧
      paramMode (s 16 1).lParam ≠ 3 := by decide

/-- No width fits 20 bytes; width 2 does not fit 16; width 0 is inferred from 16. -/
theorem witness_AutoTakesTheFirstShortest :
    let s := fun (n param : Nat) => started 2 (List.replicate n 0) param
    ((s 20 0).cfg.legal ∧ (s 20 0).lInLen.toNat ≤ (s 20 0).cfg.bufSize) ∧ paramWidth (s 20 0).lParam = 0 ∧
      inferWidth (s 20 0).lInLen.toNat = 0 ∧
      (paramWidth (s 16 2).lParam = 2 ∧ (s 16 2).lInLen.toNat ≠ 16 * (2 * 2)) ∧
      paramWidth (s 16 0).lParam = 0 ∧ inferWidth (s 16 0).lInLen.toNat = 1 := by decide

theorem witness_InferredWidthIsTheOnlyOne :
    (1 ≤ 15 ∧ 15 ≤ 15 ∧ inferWidth 3600 = 15) ∧ (∀ w ∈ List.range 16, 16 * (w * w) ≠ 20) ∧
      (started 2 []).lInLen.toNat ≤ (started 2 []).cfg.bufSize ∧ paramWidth (started 2 []).lParam = 0 ∧
      inferWidth (started 2 []).lInLen.toNat = 0 := by decide

theorem witness_DecompressorsStartTheirStream :
    (holding .rep 0 0 65536).lInLen.toNat ≤ (holding .rep 0 0 65536).cfg.bufSize := by decide

theorem witness_BCompressReportsTheStream :
    (started 4 [1] 0 0).cfg.legal ∧
      (started 4 [1] 0 0).lInLen.toNat ≤ (started 4 [1] 0 0).cfg.bufSize ∧ (started 4 [1] 0 0).lAlign = 0 ∧
      (started 4 []).lInLen = 0 ∧ (started 4 [] 0 65535).lAlign ≠ 0 ∧
      (started 4 [1] 0 3).lInLen ≠ 0 ∧ (started 4 [1] 0 3).lAlign ≠ 0 := by decide

theorem witness_CommonChecksComeFirst :
    let s := fun (op len : Nat) => { started op [] with lInLen := BitVec.ofNat 17 len }
    ((s 5 65537).phase = .dispatch ∧ (s 5 65537).events = []) ∧
      (∀ op ∈ [0, 6], ¬ (1 ≤ (s op 0).lOp.toNat ∧ (s op 0).lOp.toNat ≤ 5)) ∧
      (∀ op ∈ [1, 5], 1 ≤ (s op 65537).lOp.toNat ∧ (s op 65537).lOp.toNat ≤ 5 ∧
        (s op 65537).cfg.bufSize < (s op 65537).lInLen.toNat) ∧
      ∀ op ∈ [1, 2, 3, 4, 5], (s op 65536).lInLen.toNat ≤ (s op 65536).cfg.bufSize ∧
        (s op 65536).lOp = BitVec.ofNat 3 op := by decide

theorem witness_ReservedOperationsFail :
    (∀ op ∈ [0, 6, 7], (started op []).phase = .dispatch ∧ (started op []).events = [] ∧
      (started op []).lOp = BitVec.ofNat 3 op) ∧
      (let s := started 1 (List.replicate 16 0) 0x61
      s.cfg.legal ∧ 1 ≤ paramWidth s.lParam ∧
        s.lInLen.toNat = 16 * (paramWidth s.lParam * paramWidth s.lParam) ∧ paramMode s.lParam = 3) ∧
      paramWidth 0x61 = paramWidth (started 2 [] 1).lParam := by decide

theorem witness_CompletionWritesItsFields :
    State.reset.cfg.legal ∧ (List.replicate 65536 (0 : Byte)).length ≤ State.reset.cfg.bufSize ∧
      State.reset.cfg.bufSize < (List.replicate 65537 (0 : Byte)).length := by
  simp only [List.length_replicate]
  decide

theorem witness_StartLatchesTheOperands :
    ((1 : Word).getLsbD 0 = true ∧ (3 : Word).getLsbD 0 = true) ∧
      (State.reset.rst = false ∧ State.reset.phase = .idle) ∧
      (started 5 []).rst = false ∧ (started 5 []).phase ≠ .idle := by decide

theorem witness_ClearErasesTheReport :
    ((2 : Word).getLsbD 1 = true ∧ (2 : Word).getLsbD 0 = false) ∧
      ((3 : Word).getLsbD 1 = true ∧ (3 : Word).getLsbD 0 = true) ∧
      (State.reset.rst = false ∧ State.reset.phase = .idle) ∧
      (started 5 []).rst = false ∧ (started 5 []).phase ≠ .idle := by decide

theorem witness_RegistersReadAndWriteBack :
    State.reset.rst = false ∧ State.reset.phase = .idle ∧
      (4 : Word).getLsbD 0 = false ∧ (4 : Word).getLsbD 1 = false := by decide

theorem witness_BusyBlockKeepsItsOperation : (started 5 []).phase ≠ .idle := by decide

/-- The offsets next to each bound, and a byte access to a register. -/
theorem witness_ForbiddenAccessOnlySetsProto :
    (∀ x ∈ [(0x20, 4), (0x1E, 4), (0x1F, 1), (0x10000, 4), (0x0FFFF, 1), (0x1FFFF, 4), (0x30000, 1),
        (0x3FFFF, 1)], let off := BitVec.ofNat 18 x.1
      ¬ (x.2 = 4 ∧ off.toNat % 4 = 0 ∧ off.toNat < 0x20) ∧
        ¬ (x.2 = 1 ∧ 0x10000 ≤ off.toNat ∧ off.toNat < 0x10000 + (started 5 []).cfg.bufSize) ∧
        ¬ (x.2 = 1 ∧ 0x20000 ≤ off.toNat ∧ off.toNat < 0x20000 + (started 5 []).cfg.bufSize)) ∧
      (∀ n ∈ [0x20000, 0x2FFFF], let off := BitVec.ofNat 18 n
        0x20000 ≤ off.toNat ∧ off.toNat < 0x20000 + (started 5 []).cfg.bufSize) ∧
      (∀ n ∈ [0x10000, 0x1FFFF], let off := BitVec.ofNat 18 n
        0x10000 ≤ off.toNat ∧ off.toNat < 0x10000 + (started 5 []).cfg.bufSize) ∧
      (started 5 []).cfg.legal ∧ (started 5 []).phase ≠ .idle := by decide

/-- Both ways in which PROTO falls. -/
theorem witness_ProtoFallsOnlyByClearOrReset :
    ∀ e ∈ [HostEvent.reset true, .access (.write 0 4 2)],
      let s := { State.reset with proto := true, events := [e] }
      s.proto = true ∧ (after (step s)).map (fun t => t.proto) = some false := by decide

/-- The last byte of a buffer, IDLE and BUSY. -/
theorem witness_BuffersReadAndWriteBack :
    State.reset.cfg.legal ∧ State.reset.rst = false ∧ 65535 < State.reset.cfg.bufSize ∧
      State.reset.phase = .idle ∧
      (started 5 []).cfg.legal ∧ (started 5 []).rst = false ∧ 65535 < (started 5 []).cfg.bufSize ∧
      (started 5 []).phase ≠ .idle := by decide

theorem witness_EveryOperationCompletes : (started 3 [0x11]).Started := by
  exact ⟨rfl, rfl, rfl⟩

theorem witness_ADecompressComputesTheDecoder :
    (started 3 []).cfg.legal ∧ (started 3 []).Started ∧ (started 3 []).lOp = 3 ∧ (started 3 []).lInLen = 0 ∧
      (started 3 []).lInLen.toNat ≤ (started 3 []).cfg.bufSize :=
  ⟨by decide, ⟨rfl, rfl, rfl⟩, by decide, by decide, by decide⟩

theorem witness_BDecompressComputesTheDecoder :
    (started 5 []).cfg.legal ∧ (started 5 []).Started ∧ (started 5 []).lOp = 5 ∧ (started 5 []).lInLen = 0 ∧
      (started 5 []).lInLen.toNat ≤ (started 5 []).cfg.bufSize :=
  ⟨by decide, ⟨rfl, rfl, rfl⟩, by decide, by decide, by decide⟩

theorem witness_DecodePlaneUndoesEncodePlane :
    Config.hw.legal ∧ 1 ≤ (List.replicate 1 (3 : Pair)).length ∧
      (List.replicate 7200 (0 : Pair)).length ≤ 7200 := by
  simp only [List.length_replicate]
  decide

theorem witness_CodecARoundTrip :
    Config.hw.legal ∧ (List.replicate 16 (0 : Byte)).length = 16 * (1 * 1) ∧
      (List.replicate 3600 (0 : Byte)).length = 16 * (15 * 15) := by
  simp only [List.length_replicate]
  decide

theorem witness_CodecBRoundTrip :
    Config.hw.legal ∧ (List.replicate 65536 (0 : Byte)).length ≤ Config.hw.bufSize ∧ 1 ≤ 1 := by
  simp only [List.length_replicate]
  decide

/-- 45_codec_b_matcher.md R324's example, R326's `07 07`, and R329's `07`, which no candidate saves. -/
theorem witness_MatcherTakesTheFirstBest :
    let data := hex [0x3C, 0x5A, 0x99, 0x18, 0x3C, 0x5A, 0x99, 0x18]
    Config.hw.legal ∧ 4 < data.length ∧
      chooseAt Config.hw data 4 = ⟨.copy .rep 0, 4, 4⟩ ∧ savings ⟨.copy .rep 0, 4, 4⟩ = 2 ∧
      chooseAt Config.hw (hex [7, 7]) 0 = ⟨.iter 7, 2, 0⟩ ∧ savings ⟨.iter 7, 2, 0⟩ = 0 ∧
      chooseAt Config.hw (hex [7]) 0 = ⟨.lit, 1, 0⟩ ∧ savings ⟨.iter 7, 1, 0⟩ = -1 := by decide

theorem witness_OptimizerIsIdempotent : Params.legal { Config.hw with litCap := 4 } := by decide

theorem witness_OptimizerKeepsMatcherLists : Config.hw.legal ∧ Config.hw.litCap = 1024 := by decide

theorem witness_EncodedStreamSizeBound : 1 ≤ 1 ∧ 15 ≤ 15 := by decide

theorem witness_NibbleTablesComputeTheDelta : (bin [1, 0, 1, 1, 0, 0, 0, 1]).length % 4 = 0 := by decide

theorem witness_BytesAfterTheStreamAreIgnored : bDecode Config.hw (hex [0xFF]) = .ok [] := rfl

end Sys2Proof.Tests
end

section
/-! SUPPORT. What a host access reaches and what an access the protocol forbids does (10_state.md R21, R30, 20_memory.md R63,
R64): each function of the host bus said once, and the statement about forbidden accesses. -/
namespace Sys2Proof.Machine

/-! ### What an access reaches -/

/-- The registers stand at the aligned word offsets below 0x20, and nowhere else (10_state.md R21). -/
theorem regAt_isSome_iff (off : Nat) : (regAt off).isSome ↔ off % 4 = 0 ∧ off < 0x20 := by
  constructor
  · unfold regAt
    split <;> simp
  · have hregs : ∀ n < 0x20, n % 4 = 0 → (regAt n).isSome := by decide
    exact fun ⟨haligned, hlt⟩ => hregs off hlt haligned

/-- A byte of IN_BUF is reached by a byte access to its offset (20_memory.md R63). -/
theorem target_inByte {P : Params} {off : Nat} (hlo : 0x10000 ≤ off) (hhi : off < 0x10000 + P.bufSize) :
    target P off 1 = .inByte (off - 0x10000) := by
  simp [target, hlo, hhi]

/-- A byte of OUT_BUF is reached by a byte access to its offset: IN_BUF ends below it (20_memory.md R63). -/
theorem target_outByte {P : Params} {off : Nat} (hsize : P.bufSize ≤ 65536)
    (hlo : 0x20000 ≤ off) (hhi : off < 0x20000 + P.bufSize) :
    target P off 1 = .outByte (off - 0x20000) := by
  have hin : ¬ (0x10000 ≤ off ∧ off < 0x10000 + P.bufSize) := by omega
  simp [target, hin, hlo, hhi]

/-- An access reaches nothing where it is neither an aligned word of the registers nor a byte of a buffer (20_memory.md R63,
R64). -/
theorem target_nothing {P : Params} {off size : Nat}
    (hreg : ¬ (size = 4 ∧ off % 4 = 0 ∧ off < 0x20))
    (hin : ¬ (size = 1 ∧ 0x10000 ≤ off ∧ off < 0x10000 + P.bufSize))
    (hout : ¬ (size = 1 ∧ 0x20000 ≤ off ∧ off < 0x20000 + P.bufSize)) :
    target P off size = .nothing := by
  by_cases h4 : size = 4
  · subst h4
    have hnone : regAt off = none := by
      rw [← Option.not_isSome_iff_eq_none, regAt_isSome_iff]
      simpa using hreg
    simp [target, hnone]
  · by_cases h1 : size = 1
    · subst h1
      simp only [true_and] at hin hout
      simp [target, hin, hout]
    · simp [target, h4, h1]

/-! ### What an access does to what it reaches -/

section
variable {s : State} {off : BitVec 18} {size : Nat} (v : Word)

theorem State.hostAccess_read_nothing (h : target s.cfg off.toNat size = .nothing) :
    s.hostAccess (.read off size) = s.setProto.respond 0 := by
  simp [State.hostAccess, State.hostRead, h]

theorem State.hostAccess_write_nothing (h : target s.cfg off.toNat size = .nothing) :
    s.hostAccess (.write off size v) = s.setProto := by
  simp [State.hostAccess, State.hostWrite, h]

theorem State.hostAccess_write_reg {r : Reg} (h : target s.cfg off.toNat size = .reg r) :
    s.hostAccess (.write off size v) = s.writeReg r v := by
  simp [State.hostAccess, State.hostWrite, h]

theorem State.hostAccess_write_inByte {a : Nat} (h : target s.cfg off.toNat size = .inByte a) :
    s.hostAccess (.write off size v) = s.whenIdle (s.writeIn a (v.setWidth 8)) := by
  simp [State.hostAccess, State.hostWrite, h]

theorem State.hostAccess_write_outByte {a : Nat} (h : target s.cfg off.toNat size = .outByte a) :
    s.hostAccess (.write off size v) = s.setProto := by
  simp [State.hostAccess, State.hostWrite, h]

end

/-- STATUS.BUSY is 1 exactly outside IDLE (40_operations.md R130). -/
@[simp] theorem State.busy_iff (s : State) : s.busy = true ↔ s.phase ≠ .idle := by
  simp [State.busy]

/-- While BUSY the write is ignored and sets PROTO (10_state.md R30). -/
theorem State.whenIdle_of_busy {s : State} (hbusy : s.phase ≠ .idle) (write : State) :
    s.whenIdle write = s.setProto := by
  simp [State.whenIdle, hbusy]

/-- The three read-only registers (10_state.md R23, R28, R29): a write only sets PROTO. -/
theorem State.writeReg_readOnly (s : State) {r : Reg} (v : Word)
    (hr : r = .status ∨ r = .outLen ∨ r = .info) : s.writeReg r v = s.setProto := by
  rcases hr with rfl | rfl | rfl <;> rfl

/-- The four operand registers (10_state.md R24 to R27): while BUSY a write only sets PROTO (R30). -/
theorem State.writeReg_operand_of_busy {s : State} (hbusy : s.phase ≠ .idle) {r : Reg} (v : Word)
    (hr : r = .op ∨ r = .param ∨ r = .align ∨ r = .inLen) : s.writeReg r v = s.setProto := by
  rcases hr with rfl | rfl | rfl | rfl <;> exact State.whenIdle_of_busy hbusy _

/-- While BUSY a write of CTRL sets IRQ_EN, START sets PROTO, and CLEAR has no effect (10_state.md R22, R30). -/
theorem State.writeCtrl_of_busy {s : State} (hbusy : s.phase ≠ .idle) (v : Word) :
    s.writeCtrl v = { s with irqEn := v.getLsbD 2, proto := s.proto || v.getLsbD 0 } := by
  cases hstart : v[0] <;> simp [State.writeCtrl, State.setProto, hbusy, hstart]

/-! ### Reserved bits -/

/-- A field at the bottom of a register leaves the bits above it 0. -/
theorem setWidth_and_reserved {n : Nat} (x : BitVec n) :
    x.setWidth 32 &&& (BitVec.allOnes 32 <<< n) = 0 := by
  ext i hi
  rcases lt_or_ge i n with h | h
  · simp [h]
  · simp [x.getLsbD_of_ge i h]

/-- CTRL reads 0 outside IRQ_EN (10_state.md R22). -/
theorem State.ctrlWord_and_reserved (s : State) : s.ctrlWord &&& 0xFFFFFFFB = 0 := by
  cases h : s.irqEn <;> simp [State.ctrlWord, h]

/-- STATUS reads 0 outside its six fields (10_state.md R23). -/
theorem State.statusWord_and_reserved (s : State) : s.statusWord &&& 0xFFFFC0F0 = 0 := by
  -- Field by field: the mask is cut where the word is, and in each piece the field or its mask is 0.
  change (0#18 ++ s.errClass ++ s.errCode ++ 0#4 ++ BitVec.ofBool s.proto ++ BitVec.ofBool s.err ++
      BitVec.ofBool s.done ++ BitVec.ofBool s.busy) &&&
    (BitVec.allOnes 18 ++ 0#2 ++ 0#4 ++ BitVec.allOnes 4 ++ 0#1 ++ 0#1 ++ 0#1 ++ 0#1) = 0
  simp only [BitVec.and_append, BitVec.and_zero, BitVec.zero_and]
  rfl

/-- Reserved register bits read 0, in all eight registers (10_state.md R30). -/
theorem State.readReg_and_reserved (s : State) :
    s.readReg .ctrl &&& 0xFFFFFFFB = 0 ∧ s.readReg .status &&& 0xFFFFC0F0 = 0 ∧
      s.readReg .op &&& 0xFFFFFFF8 = 0 ∧ s.readReg .param &&& 0xFFFFFF80 = 0 ∧
      s.readReg .align &&& 0xFFFF0000 = 0 ∧ s.readReg .inLen &&& 0xFFFE0000 = 0 ∧
      s.readReg .outLen &&& 0xFFFE0000 = 0 ∧ s.readReg .info &&& 0xFFFFFF80 = 0 :=
  ⟨s.ctrlWord_and_reserved, s.statusWord_and_reserved,
    setWidth_and_reserved s.op, setWidth_and_reserved s.param,
    setWidth_and_reserved s.align, setWidth_and_reserved s.inLen,
    setWidth_and_reserved s.outLen, setWidth_and_reserved s.info⟩

/-! ### The statement -/

/-- Settles O46: each access is taken to what it reaches, and the lemma about that target says what the access does. -/
theorem forbiddenAccessOnlySetsProto : Obligations.ForbiddenAccessOnlySetsProto := by
  unfold Obligations.ForbiddenAccessOnlySetsProto
  intro s off size v hlegal
  obtain ⟨-, hsize, -⟩ := hlegal
  refine ⟨fun hreg hin hout => ?unmapped, fun hoff => ?readOnly, fun hlo hhi => ?outBuf,
    fun hbusy hoff => ?operand, fun hbusy hlo hhi => ?inBuf, fun hbusy => ?ctrl,
    s.readReg_and_reserved⟩
  case unmapped =>
    have htarget := target_nothing hreg hin hout
    exact ⟨State.hostAccess_read_nothing htarget, State.hostAccess_write_nothing v htarget⟩
  case readOnly =>
    obtain ⟨r, htarget, hr⟩ : ∃ r, target s.cfg off.toNat 4 = .reg r ∧
        (r = .status ∨ r = .outLen ∨ r = .info) := by
      rcases hoff with rfl | rfl | rfl <;> exact ⟨_, rfl, by decide⟩
    exact (State.hostAccess_write_reg v htarget).trans (s.writeReg_readOnly v hr)
  case outBuf =>
    exact State.hostAccess_write_outByte v (target_outByte hsize hlo hhi)
  case operand =>
    obtain ⟨r, htarget, hr⟩ : ∃ r, target s.cfg off.toNat 4 = .reg r ∧
        (r = .op ∨ r = .param ∨ r = .align ∨ r = .inLen) := by
      rcases hoff with rfl | rfl | rfl | rfl <;> exact ⟨_, rfl, by decide⟩
    exact (State.hostAccess_write_reg v htarget).trans (State.writeReg_operand_of_busy hbusy v hr)
  case inBuf =>
    exact (State.hostAccess_write_inByte v (target_inByte hlo hhi)).trans
      (State.whenIdle_of_busy hbusy _)
  case ctrl =>
    have htarget : target s.cfg (0 : BitVec 18).toNat 4 = .reg .ctrl := rfl
    exact (State.hostAccess_write_reg v htarget).trans (State.writeCtrl_of_busy hbusy v)

end Sys2Proof.Machine
end

section
/-! SUPPORT. Reserved operation codes and the MODE field (30_encoding.md R107, 40_operations.md R133, R140, R145): what
the first move of an operation runs, what A_COMPRESS checks, and that A_COMPRESS_AUTO sees L_PARAM by its width only. -/
namespace Sys2Proof.Machine

/-! ### The first move of an operation -/

/-- With nothing waiting outside, the first move runs the row of L_OP (40_operations.md R133). -/
theorem step_of_dispatch {s : State} (hphase : s.phase = .dispatch) (hevents : s.events = []) :
    step s = exec (decodeOp s.lOp.toNat) s := by
  simp [step, hevents, engineStep, State.fetch, hphase]

/-- The rows of OP = 0, 6 and 7 (30_encoding.md R107). -/
theorem exec_reserved (s : State) {i : Instr}
    (hi : i = .opReserved0 ∨ i = .opReserved6 ∨ i = .opReserved7) :
    exec i s = .next (s.raise .invalidOperation) := by
  rcases hi with rfl | rfl | rfl <;> rfl

/-- The codes 0, 6 and 7 decode to the reserved rows (30_encoding.md R107). -/
theorem decodeOp_reserved {op : BitVec 3} (hop : op = 0 ∨ op = 6 ∨ op = 7) :
    decodeOp op.toNat = .opReserved0 ∨ decodeOp op.toNat = .opReserved6 ∨
      decodeOp op.toNat = .opReserved7 := by
  rcases hop with rfl | rfl | rfl
  · exact .inl rfl
  · exact .inr (.inl rfl)
  · exact .inr (.inr rfl)

/-! ### The checks of A_COMPRESS -/

/-- PARAM.WIDTH has four bits (10_state.md R25). -/
theorem paramWidth_le (p : BitVec 7) : paramWidth p ≤ 15 := by
  unfold paramWidth
  omega

/-- The data of the largest width fits any legal buffer (00_scope.md R9, R10). -/
theorem dataLen_le_bufSize {P : Params} (hlegal : P.legal) {w : Nat} (hw : w ≤ 15) :
    Config.dataLen w ≤ P.bufSize := by
  obtain ⟨hsize, -⟩ := hlegal
  have hsq : w * w ≤ 15 * 15 := Nat.mul_le_mul hw hw
  unfold Config.dataLen
  omega

/-- MODE is the last check of A_COMPRESS: 3 fails where width and length are right (40_operations.md R140). -/
theorem checkCompress_mode_three {w : Nat} (hlo : 1 ≤ w) (hhi : w ≤ 15) :
    checkCompress w 3 (Config.dataLen w) = .error .invalidMode := by
  simp [checkCompress, hlo, hhi]

/-- An operation whose input fits runs on the input's bytes (40_operations.md R133). -/
theorem State.withInput_of_le {s : State} (h : s.lInLen.toNat ≤ s.cfg.bufSize)
    (run : List Byte → State) :
    s.withInput run = run ((List.range s.lInLen.toNat).map fun j => s.readIn j) := by
  rcases s.withInput_cases run with ⟨-, hrun⟩ | ⟨hlt, -⟩
  · exact hrun
  · omega

/-- MODE 3 makes A_COMPRESS fail (40_operations.md R140, 30_encoding.md R107). -/
theorem exec_aCompress_mode_three {s : State} (hlegal : s.cfg.legal)
    (hwidth : 1 ≤ paramWidth s.lParam)
    (hlen : s.lInLen.toNat = Config.dataLen (paramWidth s.lParam))
    (hmode : paramMode s.lParam = 3) :
    exec .aCompress s = .next (s.raise .invalidMode) := by
  have hle := paramWidth_le s.lParam
  have hfits : s.lInLen.toNat ≤ s.cfg.bufSize := hlen ▸ dataLen_le_bufSize hlegal hle
  have hcheck := checkCompress_mode_three hwidth hle
  change Host.Outcome.next (s.withInput _) = _
  rw [State.withInput_of_le hfits]
  simp [hlen, hmode, hcheck]

/-! ### What does not depend on L_PARAM

L_PARAM can be replaced before or after each of these shared operations. -/

section
variable (s : State) (p : BitVec 7)

/-- The input is IN_BUF's (20_memory.md R68). -/
theorem State.input_lParam : { s with lParam := p }.input = s.input := by
  simp only [State.input, State.inBytes_eq_map]
  rfl

theorem State.complete_lParam (bytes : List Byte) (info : BitVec 7) :
    { s with lParam := p }.complete bytes info = { s.complete bytes info with lParam := p } := by
  by_cases h : bytes.length > s.cfg.bufSize
  · simp only [State.complete, if_pos h]
    rfl
  · simp only [State.complete, if_neg h]
    rfl

theorem State.withInput_lParam {run run' : List Byte → State}
    (hrun : ∀ data, run' data = { run data with lParam := p }) :
    { s with lParam := p }.withInput run' = { s.withInput run with lParam := p } := by
  unfold State.withInput
  rw [State.input_lParam]
  cases s.input with
  | error e => rfl
  | ok data => exact hrun data

end

/-- Of PARAM, A_COMPRESS_AUTO uses the width only: SWAP and MODE are ignored (30_encoding.md R107, 40_operations.md
R145). -/
theorem exec_aCompressAuto_lParam (s : State) {p : BitVec 7} (hp : paramWidth p = paramWidth s.lParam) :
    ∃ t, exec .aCompressAuto s = .next t ∧
      exec .aCompressAuto { s with lParam := p } = .next { t with lParam := p } := by
  refine ⟨_, rfl, congrArg Host.Outcome.next (s.withInput_lParam p fun data => ?_)⟩
  rw [hp]
  cases autoWidth (paramWidth s.lParam) data.length with
  | error e => rfl
  | ok w =>
    -- With a best result or without one, the operation ends in a completion.
    cases hbest : autoBest data w <;> simp only [hbest] <;>
      exact State.complete_lParam (s.setWork _) p _ _

/-! ### The statement -/

/-- Settles O39: the reserved rows by their meaning and by the first move of an operation, MODE 3 by the checks of
A_COMPRESS, and A_COMPRESS_AUTO by its independence of L_PARAM. -/
theorem reservedOperationsFail : Obligations.ReservedOperationsFail := by
  unfold Obligations.ReservedOperationsFail
  intro s
  refine ⟨⟨exec_reserved s (by simp), exec_reserved s (by simp), exec_reserved s (by simp)⟩,
    fun hphase hevents hop => ?reserved, fun hlegal hwidth hlen hmode => ?mode,
    fun p hp => exec_aCompressAuto_lParam s hp⟩
  case reserved =>
    exact (step_of_dispatch hphase hevents).trans (exec_reserved s (decodeOp_reserved hop))
  case mode =>
    exact exec_aCompress_mode_three hlegal hwidth hlen hmode

end Sys2Proof.Machine
end

section
/-! SUPPORT. Readers of a bit stream (41_bit_cursor.md R170 to R172). The engine shows the decoder a window of the stream and
the stream decoders read all of it. A reader that decides within the window answers the same on both. -/
namespace Sys2Proof

/-- A reader: a value and the bits left, or an error. -/
abbrev Reader (α : Type) := List Bool → Except Err (α × List Bool)

/-- The reader decides within `n` bits. A success takes at most `n` bits and is the same whatever follows them, and an error
is the same on every cut of the stream that keeps `n` bits. `S` holds of the value and the number of bits taken. -/
def Reader.Within {α : Type} (n : Nat) (S : α → Nat → Prop) (f : Reader α) : Prop :=
  ∀ bits,
    (∃ a used rest, bits = used ++ rest ∧ used.length ≤ n ∧ S a used.length ∧
      ∀ more, f (used ++ more) = .ok (a, more)) ∨
    ∃ e, ∀ k, n ≤ k → f (bits.take k) = .error e

namespace Reader
variable {α β : Type} {n m : Nat} {S : α → Nat → Prop} {T : β → Nat → Prop} {f : Reader α}

/-- A result that reads nothing. -/
theorem Within.pure {a : α} (h : S a 0) : Within 0 S fun bits => .ok (a, bits) :=
  fun bits => .inl ⟨a, [], bits, rfl, le_rfl, h, fun _ => rfl⟩

/-- An error that reads nothing. -/
theorem Within.error (e : Err) : Within 0 S fun _ => .error e :=
  fun _ => .inr ⟨e, fun _ _ => rfl⟩

/-- A check that reads nothing. -/
theorem Within.const (x : Except Err α) : Within 0 (fun _ _ => True) fun bits => x >>= fun a => .ok (a, bits) := by
  cases x with
  | error e => exact Within.error e
  | ok a => exact Within.pure trivial

/-- Two readers in turn: what the second takes comes after what the first has taken. -/
theorem Within.bind {g : α × List Bool → Except Err (β × List Bool)} (hf : Within n S f)
    (hg : ∀ a k, S a k → Within m (fun b l => T b (k + l)) fun bits => g (a, bits)) :
    Within (n + m) T fun bits => f bits >>= g := by
  intro bits
  rcases hf bits with ⟨a, used, rest, rfl, hn, hS, hok⟩ | ⟨e, herr⟩
  · rcases hg a _ hS rest with ⟨b, used', rest', rfl, hm, hT, hok'⟩ | ⟨e, herr⟩
    · exact .inl ⟨b, used ++ used', rest', by simp, by simpa using Nat.add_le_add hn hm, by simpa using hT,
        fun more => by simp [hok, hok']⟩
    · refine .inr ⟨e, fun k hk => ?_⟩
      simpa [List.take_append, List.take_of_length_le (show used.length ≤ k by omega), hok]
        using herr (k - used.length) (by omega)
  · exact .inr ⟨e, fun k hk => by simp [herr k (by omega)]⟩

/-- A wider window and a weaker fact will do. -/
theorem Within.mono {S' : α → Nat → Prop} (hf : Within n S f) (hn : n ≤ m)
    (hS : ∀ a k, S a k → S' a k) : Within m S' f := by
  intro bits
  rcases hf bits with ⟨a, used, rest, hbits, hl, ha, hok⟩ | ⟨e, herr⟩
  · exact .inl ⟨a, used, rest, hbits, hl.trans hn, hS _ _ ha, hok⟩
  · exact .inr ⟨e, fun k hk => herr k (hn.trans hk)⟩

/-- A choice that does not look at the bits. -/
theorem Within.ite {c : Prop} [Decidable c] {g : Reader α} (hf : c → Within n S f) (hg : ¬ c → Within n S g) :
    Within n S fun bits => if c then f bits else g bits := by
  by_cases h : c
  · simpa only [if_pos h] using hf h
  · simpa only [if_neg h] using hg h

/-- The reader on a window of the stream that keeps `n` bits: it takes the same bits, or meets the same error. -/
theorem Within.window (hf : Within n S f) (hm : n ≤ m) (bits : List Bool) :
    (∃ a used rest, bits = used ++ rest ∧ S a used.length ∧ f bits = .ok (a, rest) ∧
      ∃ left, f (bits.take m) = .ok (a, left) ∧ (bits.take m).length - left.length = used.length) ∨
    ∃ e, f bits = .error e ∧ f (bits.take m) = .error e := by
  rcases hf bits with ⟨a, used, rest, rfl, hl, hS, hok⟩ | ⟨e, herr⟩
  · have htake : (used ++ rest).take m = used ++ rest.take (m - used.length) := by
      rw [List.take_append, List.take_of_length_le (hl.trans hm)]
    exact .inl ⟨a, used, rest, rfl, hS, hok rest, rest.take (m - used.length), by rw [htake, hok], by simp [htake]⟩
  · have hall := herr (n + bits.length) (Nat.le_add_right _ _)
    rw [List.take_of_length_le (Nat.le_add_left _ _)] at hall
    exact .inr ⟨e, hall, herr m hm⟩

/-- A success stays the same with any bits after the stream. -/
theorem Within.append (hf : Within n S f) {bits rest : List Bool} {a : α} (h : f bits = .ok (a, rest))
    (more : List Bool) : f (bits ++ more) = .ok (a, rest ++ more) := by
  rcases hf bits with ⟨a', used, rest', rfl, -, -, hok⟩ | ⟨e, herr⟩
  · rw [hok, Except.ok.injEq, Prod.mk.injEq] at h
    obtain ⟨rfl, rfl⟩ := h
    rw [List.append_assoc, hok]
  · have hall := herr (n + bits.length) (Nat.le_add_right _ _)
    rw [List.take_of_length_le (Nat.le_add_left _ _), h] at hall
    cases hall

end Reader

open Reader

/-- `ReadBits(N)` decides within N bits and gives an N-bit number (41_bit_cursor.md R171, R172). -/
theorem readBits_within (n : Nat) : Within n (fun v k => v < 2 ^ n ∧ k = n) (readBits n) := by
  intro bits
  rcases readBits_cases n bits with ⟨used, rest, rfl, hl, -⟩ | ⟨hl, herr⟩
  · refine .inl ⟨natOfBits used, used, rest, rfl, hl.le, ⟨hl ▸ natOfBits_lt used, hl⟩, fun more => ?_⟩
    rcases readBits_cases n (used ++ more) with ⟨used', more', heq, hl', hok⟩ | ⟨hlt, -⟩
    · obtain ⟨rfl, rfl⟩ := List.append_inj heq (hl.trans hl'.symm)
      exact hok
    · rw [List.length_append] at hlt
      omega
  · exact .inr ⟨_, fun k hk => by rwa [List.take_of_length_le (by omega)]⟩

/-- The unary part of an RLE packet takes one bit more than it counts (43_codec_a_rle.md R222). -/
theorem readUnary_within (left w : Nat) :
    Within (left + 1) (fun v k => v + 1 = w + k ∧ 1 ≤ k ∧ k ≤ left + 1) (readUnary left w) := by
  induction left generalizing w with
  | zero =>
    rintro (_ | ⟨_ | _, bits⟩)
    · exact .inr ⟨.truncatedStream, fun k _ => by simp [readUnary]⟩
    · exact .inl ⟨w, [false], bits, rfl, by simp, by simp, fun _ => rfl⟩
    · refine .inr ⟨.runLengthOverflow, fun k hk => ?_⟩
      obtain ⟨k, rfl⟩ := Nat.exists_eq_add_of_le' hk
      rfl
  | succ left ih =>
    rintro (_ | ⟨_ | _, bits⟩)
    · exact .inr ⟨.truncatedStream, fun k _ => by simp [readUnary]⟩
    · exact .inl ⟨w, [false], bits, rfl, by simp, by simp, fun _ => rfl⟩
    · rcases ih (w + 1) bits with ⟨v, used, rest, rfl, hl, hS, hok⟩ | ⟨e, herr⟩
      · exact .inl ⟨v, true :: used, rest, rfl, by simpa using hl, by simp; omega, hok⟩
      · refine .inr ⟨e, fun k hk => ?_⟩
        obtain ⟨k, rfl⟩ := Nat.exists_eq_add_of_le' (Nat.le_of_add_left_le hk)
        exact herr k (by omega)

theorem shortRow_space (kind len : Nat) : (shortRow kind len).space = .bHeader := by
  unfold shortRow
  split <;> rfl

theorem longRow_space (kind len : Nat) : (longRow kind len).space = .bHeader := by
  unfold longRow
  split <;> rfl

theorem escapeRow_space (low : Nat) : (escapeRow low).space = .bHeader := by
  unfold escapeRow
  split <;> rfl

/-- A header is one byte or two (30_encoding.md R101, R102, R105). -/
theorem decodeHeader_within :
    Within 16 (fun i k => (k = 8 ∨ k = 16) ∧ i.space = .bHeader) decodeHeader := by
  refine (readBits_within 3).bind (m := 13) ?_
  rintro kind _ ⟨-, rfl⟩
  refine Within.ite (fun _ => ?short) fun _ => ?long
  case short =>
    refine Within.mono ((readBits_within 5).bind (m := 0) ?_) (by omega) fun _ _ h => h
    rintro low _ ⟨-, rfl⟩
    exact Within.pure ⟨.inl rfl, shortRow_space _ _⟩
  case long =>
    refine (readBits_within 3).bind (m := 10) ?_
    rintro long _ ⟨-, rfl⟩
    refine (readBits_within 2).bind (m := 8) ?_
    rintro low _ ⟨-, rfl⟩
    refine Within.ite (fun _ => ?_) fun _ => ?_
    · exact (Within.pure ⟨.inl rfl, escapeRow_space _⟩).mono (by omega) fun _ _ h => h
    · refine (readBits_within 8).bind (m := 0) ?_
      rintro second _ ⟨-, rfl⟩
      exact Within.pure ⟨.inr rfl, longRow_space _ _⟩

/-- A copy offset is one byte or two (30_encoding.md R104). -/
theorem decodeOffset_within :
    Within 16 (fun i k => (k = 8 ∨ k = 16) ∧ i.space = .bOffset) decodeOffset := by
  refine (readBits_within 1).bind (m := 15) ?_
  rintro form _ ⟨-, rfl⟩
  refine (readBits_within 7).bind (m := 8) ?_
  rintro low _ ⟨-, rfl⟩
  refine Within.ite (fun _ => ?_) fun _ => ?_
  · exact (Within.pure ⟨.inl rfl, rfl⟩).mono (by omega) fun _ _ h => h
  · refine (readBits_within 8).bind (m := 0) ?_
    rintro second _ ⟨-, rfl⟩
    exact Within.pure ⟨.inr rfl, rfl⟩

end Sys2Proof
end

section
/-! SUPPORT. A decoder run row by row against the decoder as one function: what "the engine computes it" means, and what one
move of the Codec A decoder does with the bits left in the stream. -/
namespace Sys2Proof.Machine

open Reader

/-! ### The parameters -/

theorem legal_le_bufSize {P : Params} (h : P.legal) : 8192 ≤ P.bufSize := by
  obtain ⟨hsize, -⟩ := h
  exact hsize

theorem legal_bufSize_le {P : Params} (h : P.legal) : P.bufSize ≤ 65536 := by
  obtain ⟨-, hsize, -⟩ := h
  exact hsize

theorem legal_le_rlClassMax {P : Params} (h : P.legal) : 11 ≤ P.rlClassMax := by
  obtain ⟨-, -, hclass, -⟩ := h
  exact hclass

/-! ### What the host sees of a result -/

/-- A result that fits is reported as it is (40_operations.md R134). -/
theorem State.complete_reports {s : State} (hlegal : s.cfg.legal) {bytes : List Byte} (info : BitVec 7)
    (hfits : bytes.length ≤ s.cfg.bufSize) : (s.complete bytes info).Reports bytes info := by
  have hsize := legal_bufSize_le hlegal
  have hread := fun a ha => s.readOut_complete info hfits (a := a) ha
  rcases s.complete_cases bytes info with ⟨-, h⟩ | ⟨hlt, -⟩
  · rw [h] at hread ⊢
    exact ⟨rfl, rfl, rfl, by simp; omega, rfl, hread⟩
  · omega

/-- A completion after the working registers have been set (40_operations.md R134). -/
theorem State.complete_setWork_spec {s : State} (hlegal : s.cfg.legal) (w : Work) {bytes : List Byte} (info : BitVec 7)
    (hfits : bytes.length ≤ s.cfg.bufSize) :
    ((s.setWork w).complete bytes info).phase = .idle ∧ ((s.setWork w).complete bytes info).done = true ∧
      ((s.setWork w).complete bytes info).Reports bytes info :=
  ⟨State.complete_phase _ _ _, State.complete_done _ _ _,
    State.complete_reports (s := s.setWork w) hlegal info hfits⟩

/-- Error entry is reported as the error (60_exceptions.md R374). -/
theorem State.raise_reportsError (s : State) (e : Err) : (s.raise e).ReportsError e :=
  ⟨rfl, rfl, rfl, rfl, rfl⟩

/-- A result that is too long is reported as OUTPUT_OVERFLOW (40_operations.md R134). -/
theorem State.complete_reportsError {s : State} {bytes : List Byte} (info : BitVec 7)
    (hlong : s.cfg.bufSize < bytes.length) : (s.complete bytes info).ReportsError .outputOverflow := by
  rcases s.complete_cases bytes info with ⟨hle, -⟩ | ⟨-, hraise⟩
  · omega
  · rw [hraise]
    exact s.raise_reportsError _

section
variable {α : Type} {view : α → List Byte × BitVec 7} {s t : State} {a : Answer} {r : Except Err α}

/-- The host sees the result `r`, whose bytes and INFO `view` gives. -/
def State.ReportsResult (t : State) (view : α → List Byte × BitVec 7) : Except Err α → Prop
  | .ok x => t.Reports (view x).1 (view x).2
  | .error e => t.ReportsError e

/-- The engine, left alone in `s`, completes and reports `r`. -/
def Computes (view : α → List Byte × BitVec 7) (s : State) (r : Except Err α) : Prop :=
  ∃ k t, CompletesTo s k t ∧ t.ReportsResult view r

/-- A move that answers `a` leads to a state that computes `r`. -/
def Answers (view : α → List Byte × BitVec 7) (a : Answer) (r : Except Err α) : Prop :=
  ∃ t, a = .next t ∧ Computes view t r

/-- A completed operation has computed what it reports. -/
theorem computes_of_completed (hidle : t.phase = .idle) (hdone : t.done = true)
    (hr : t.ReportsResult view r) : Computes view t r :=
  ⟨0, t, ⟨rfl, hidle, hdone⟩, hr⟩

/-- One move on. -/
theorem computes_of_step (h : Answers view (step s) r) : Computes view s r := by
  obtain ⟨t, ht, k, u, ⟨hrun, hidle, hdone⟩, hr⟩ := h
  have hcore : Sys2Proof.core.step s = .next t := ht
  refine ⟨k + 1, u, ⟨?_, hidle, hdone⟩, hr⟩
  simpa only [Host.Core.run, hcore] using hrun

/-- An error that has been entered is what was computed. -/
theorem computes_raise (s : State) (e : Err) : Computes view (s.raise e) (.error e) :=
  computes_of_completed rfl rfl (s.raise_reportsError e)

/-- A move that enters an error computes the error. -/
theorem answers_raise (s : State) (e : Err) : Answers view (.next (s.raise e)) (.error e) :=
  ⟨_, rfl, computes_raise s e⟩

/-- A move that completes with a result that fits computes the result. -/
theorem answers_complete {w : Work} {x : α} (hlegal : s.cfg.legal) (hfits : (view x).1.length ≤ s.cfg.bufSize)
    (ha : a = .next ((s.setWork w).complete (view x).1 (view x).2)) : Answers view a (.ok x) := by
  obtain ⟨hidle, hdone, hreports⟩ := State.complete_setWork_spec hlegal w (view x).2 hfits
  exact ⟨_, ha, computes_of_completed hidle hdone hreports⟩

/-- With nothing waiting outside the engine moves (10_state.md R20). -/
theorem step_of_no_events (hevents : s.events = []) : step s = engineStep s := by
  simp [step, hevents]

end

/-! ### The bits left in the stream -/

/-- Bit `j` of `bits_N(v)` is `v[N − 1 − j]` (00_scope.md R12). -/
theorem bitsOfNat_getElem? (n v : Nat) {j : Nat} (h : j < n) :
    (bitsOfNat n v)[j]? = some (v.testBit (n - 1 - j)) := by
  induction n generalizing j with
  | zero => omega
  | succ n ih =>
    cases j with
    | zero => simp [bitsOfNat]
    | succ j =>
      rw [bitsOfNat, List.getElem?_cons_succ, ih (by omega)]
      congr 2
      omega

/-- Bit `8i + j` of a byte sequence is bit `7 − j` of byte `i` (20_memory.md R61). -/
theorem bitsOfBytes_getElem? (bs : List Byte) (i : Nat) {j : Nat} (h : j < 8) :
    (bitsOfBytes bs)[8 * i + j]? = bs[i]?.map fun b => b.getLsbD (7 - j) := by
  induction bs generalizing i with
  | nil => simp
  | cons b bs ih =>
    rw [bitsOfBytes_cons]
    cases i with
    | zero =>
      rw [Nat.mul_zero, Nat.zero_add, List.getElem?_append_left (by simpa using h)]
      exact bitsOfNat_getElem? 8 b.toNat h
    | succ i =>
      rw [List.getElem?_append_right (by simp; omega), bitsOfByte_length,
        show 8 * (i + 1) + j - 8 = 8 * i + j by omega, ih i, List.getElem?_cons_succ]

theorem bitsOfBytes_drop (bs : List Byte) (n : Nat) :
    bitsOfBytes (bs.drop n) = (bitsOfBytes bs).drop (8 * n) := by
  induction n generalizing bs with
  | zero => rfl
  | succ n ih =>
    cases bs with
    | nil => simp
    | cons b bs =>
      rw [List.drop_succ_cons, ih, bitsOfBytes_cons,
        show 8 * (n + 1) = (bitsOfByte b).length + 8 * n by rw [bitsOfByte_length]; omega,
        List.drop_length_add_append]

theorem bitsOfBytes_take (bs : List Byte) (n : Nat) :
    bitsOfBytes (bs.take n) = (bitsOfBytes bs).take (8 * n) := by
  induction n generalizing bs with
  | zero => rfl
  | succ n ih =>
    cases bs with
    | nil => simp
    | cons b bs =>
      rw [List.take_succ_cons, bitsOfBytes_cons, ih, bitsOfBytes_cons,
        show 8 * (n + 1) = (bitsOfByte b).length + 8 * n by rw [bitsOfByte_length]; omega,
        List.take_length_add_append]

section
variable (s : State)

/-- `input` (40_operations.md R133). -/
def State.inputBytes : List Byte :=
  (List.range s.lInLen.toNat).map s.readIn

@[simp] theorem State.inputBytes_length : s.inputBytes.length = s.lInLen.toNat := by
  simp [State.inputBytes]

/-- The bits of `input` from a read cursor on (41_bit_cursor.md R170). -/
def State.unread (c : Cursor) : List Bool :=
  (bitsOfBytes s.inputBytes).drop c.position

/-- `n` bits on is `n` positions on (41_bit_cursor.md R170, R173). -/
theorem Cursor.advance_position {c : Cursor} (h : c.bit ≤ 7) (n : Nat) :
    (c.advance n).position = c.position + n := by
  induction n generalizing c with
  | zero => rfl
  | succ n ih =>
    obtain ⟨hnext, hbit⟩ := Cursor.next_position h
    rw [Cursor.advance, ih hbit, hnext]
    omega

/-- The cursor moved over the first bits left. -/
theorem State.unread_advance {c : Cursor} (h : c.bit ≤ 7) (n : Nat) :
    s.unread (c.advance n) = (s.unread c).drop n := by
  rw [State.unread, Cursor.advance_position h, State.unread, List.drop_drop]

/-- `BitRead()` gives the first bit left (41_bit_cursor.md R170). -/
theorem State.bitRead_eq {c : Cursor} (h : c.bit ≤ 7) :
    s.bitRead c = (s.unread c).head?.map fun b => (b, c.next) := by
  have hbit := bitsOfBytes_getElem? s.inputBytes c.byte (j := 7 - c.bit) (by omega)
  rw [show 7 - (7 - c.bit) = c.bit by omega] at hbit
  rw [State.unread, List.head?_drop, Cursor.position, hbit, State.bitRead]
  split_ifs with hin <;> simp [State.inputBytes, hin]

/-- The next bits at a cursor are the first bits left. -/
theorem State.peekBits_eq (n : Nat) {c : Cursor} (h : c.bit ≤ 7) :
    s.peekBits n c = (s.unread c).take n := by
  induction n generalizing c with
  | zero => simp [State.peekBits]
  | succ n ih =>
    have htail : s.unread c.next = (s.unread c).tail := by
      rw [← List.drop_one, ← s.unread_advance h 1]
      rfl
    rw [State.peekBits, s.bitRead_eq h]
    cases hbits : s.unread c with
    | nil => rfl
    | cons b bits =>
      rw [hbits, List.tail_cons] at htail
      simp [ih (Cursor.next_position h).2, htail]

end
end Sys2Proof.Machine
end

section
/-! SUPPORT. A_DECOMPRESS run token by token computes the stream decoder of 43_codec_a_rle.md R250 (40_operations.md R150). -/
namespace Sys2Proof.Machine

open Reader

/-! ### The readers of the stream decoder -/

/-- The two nibbles of the header (43_codec_a_rle.md R250). -/
def readSize (bits : List Bool) : Except Err ((Nat × Nat) × List Bool) := do
  let (w, bits) ← readBits 4 bits
  let (h, bits) ← readBits 4 bits
  return ((w, h), bits)

/-- The fields of an RLE packet (43_codec_a_rle.md R222). -/
def readPacket (P : Params) (bits : List Bool) : Except Err ((Nat × Nat) × List Bool) := do
  let (w, bits) ← readUnary P.rlClassMax 0 bits
  let (v, bits) ← readBits (w + 1) bits
  return ((w, v), bits)

theorem readSize_within : Within 8 (fun x k => 1 ≤ k ∧ x.1 ≤ 15) readSize := by
  refine (readBits_within 4).bind (m := 4) ?_
  rintro w _ ⟨hw, rfl⟩
  refine (readBits_within 4).bind (m := 0) ?_
  rintro h _ ⟨-, rfl⟩
  exact Within.pure ⟨by omega, Nat.le_of_lt_succ hw⟩

theorem readPacket_within (P : Params) :
    Within (2 * P.rlClassMax + 2) (fun _ k => 1 ≤ k) (readPacket P) := by
  have hunary := readUnary_within P.rlClassMax 0
  refine Within.mono (hunary.bind (m := P.rlClassMax + 1) ?_) (by omega) fun _ _ h => h
  rintro w k ⟨hw, hk, hmax⟩
  refine Within.mono ((readBits_within (w + 1)).bind (m := 0) ?_) (by omega) fun _ _ h => h
  rintro v _ ⟨-, rfl⟩
  exact Within.pure (by omega)

/-- `ReadRun()` reads the fields of an RLE packet (43_codec_a_rle.md R222). -/
theorem readRun_eq (P : Params) (bits : List Bool) :
    readRun P bits = readPacket P bits >>= fun x => .ok (runBase x.1.1 + x.1.2, x.2) := by
  simp [readRun, readPacket]

theorem readRun_within (P : Params) : Within (2 * P.rlClassMax + 2) (fun _ k => 1 ≤ k) (readRun P) := by
  rw [show readRun P = _ from funext (readRun_eq P)]
  refine (readPacket_within P).bind (m := 0) fun x k hk => ?_
  exact Within.pure (a := runBase x.1 + x.2) (S := fun _ l => 1 ≤ k + l) hk

theorem readMode_within : Within 2 (fun m k => 1 ≤ k ∧ m ≤ 2) readMode := by
  refine (readBits_within 1).bind (m := 1) ?_
  rintro first _ ⟨-, rfl⟩
  refine Within.ite (fun _ => ?_) fun _ => ?_
  · exact (Within.pure ⟨le_rfl, by omega⟩).mono (by omega) fun _ _ h => h
  · refine (readBits_within 1).bind (m := 0) ?_
    rintro second _ ⟨hsecond, rfl⟩
    exact Within.pure ⟨by omega, by omega⟩

/-! The rows that the decoder of the code spaces finds are those of what these readers read. -/

theorem decode_aHdr (P : Params) (bits : List Bool) :
    decode P .aHdr bits = readSize bits >>= fun x => .ok (.aHdr x.1.1 x.1.2, x.2) := by
  simp [decode, decodeAHdr, readSize]

theorem decode_aRle (P : Params) (bits : List Bool) :
    decode P .aRle bits = readPacket P bits >>= fun x => .ok (.aRun x.1.1 x.1.2, x.2) := by
  simp [decode, decodeRun, readPacket]

theorem decode_aOrd (P : Params) (bits : List Bool) :
    decode P .aOrd bits = readBits 1 bits >>= fun x => .ok (.aOrd (x.1 == 1), x.2) := rfl

/-- The row of a start bit (30_encoding.md R94). -/
def startRow (bit : Nat) : Instr :=
  if bit = 0 then .aS0 else .aS1

/-- The row of a group of a data packet (30_encoding.md R95). -/
def dataRow (v : Nat) : Instr :=
  if v = 0 then .aT else .aP (BitVec.ofNat 2 v)

theorem decode_aStart (P : Params) (bits : List Bool) :
    decode P .aStart bits = readBits 1 bits >>= fun x => .ok (startRow x.1, x.2) := rfl

theorem decode_aData (P : Params) (bits : List Bool) :
    decode P .aData bits = readBits 2 bits >>= fun x => .ok (dataRow x.1, x.2) := rfl

/-- The mode that `ReadMode()` reads is the one whose token the decoder finds (43_codec_a_rle.md R240). -/
theorem decode_aMode (P : Params) (bits : List Bool) :
    decode P .aMode bits = readMode bits >>= fun x => .ok (modeToken x.1, x.2) := by
  simp only [decode, decodeMode, readMode, bind_assoc]
  refine bind_congr fun x => ?_
  split_ifs with hfirst
  · rfl
  · simp only [bind_assoc]
    refine bind_congr fun y => ?_
    rcases y with ⟨_ | second, rest⟩
    · rfl
    · simp [modeToken]

/-! ### One move of the decoder -/

/-- The working registers with the cursor moved. -/
def Work.moveTo (w : Work) (rc : Cursor) : Work :=
  { w with rc := rc }

/-- The working registers inside a plane: the packet type and the pairs so far. -/
def Work.inPlane (w : Work) (packet : Packet) (seq : List Pair) : Work :=
  { w with packet := packet, seq := seq }

section
variable {α β : Type} {view : β → List Byte × BitVec 7} {s : State} {w : Work} {p : Phase} {sp : Space} {n : Nat}
  {S : α → Nat → Prop} {f : Reader α} {row : α → Instr} {K : α × List Bool → Except Err β}

/-- A move in a Codec A phase: it fetches what the reader `f` reads of the bits left and runs that row with the cursor past
it. What follows has to compute the rest of the decoder, `K`. -/
theorem computes_fetchA (hevents : s.events = []) (hbit : w.rc.bit ≤ 7)
    (hfetch : ((s.setWork w).goto p).fetch = ((s.setWork w).goto p).fetchA sp ((s.setWork w).goto p).windowA)
    (hf : Within n S f) (hn : n ≤ 2 * s.cfg.rlClassMax + 2)
    (hdec : ∀ bits, decode s.cfg sp bits = f bits >>= fun x => .ok (row x.1, x.2))
    (hrun : ∀ a k rc, S a k → rc.bit ≤ 7 → (s.unread w.rc).length = k + (s.unread rc).length →
      Answers view (exec (row a) ((s.setWork (w.moveTo rc)).goto p)) (K (a, s.unread rc))) :
    Computes view ((s.setWork w).goto p) (f (s.unread w.rc) >>= K) := by
  have hwindow : ((s.setWork w).goto p).windowA = (s.unread w.rc).take (2 * s.cfg.rlClassMax + 2) :=
    State.peekBits_eq _ _ hbit
  refine computes_of_step ?_
  rw [step_of_no_events (s := (s.setWork w).goto p) hevents, engineStep, hfetch, State.fetchA, hwindow,
    State.goto_cfg, State.setWork_cfg, hdec]
  rcases hf.window hn (s.unread w.rc) with ⟨a, used, rest, hbits, hS, hok, left, hleft, hused⟩ | ⟨e, hall, hcut⟩
  · have hrest : s.unread (w.rc.advance used.length) = rest := by
      rw [s.unread_advance hbit, hbits, List.drop_left]
    have hrun := hrun a used.length (w.rc.advance used.length) hS (Cursor.advance_bit hbit _)
      (by rw [hrest, hbits, List.length_append])
    rw [hrest] at hrun
    rw [hleft, hok]
    simp only [except_ok_bind, hused]
    exact hrun
  · rw [hcut, hall]
    exact answers_raise _ e

end

/-! ### A plane -/

/-- A plane ends the moment it is full (43_codec_a_rle.md R236). -/
theorem State.produce_full {s : State} {seq : List Pair} (h : seq.length = s.planeSize) (next : Packet) :
    s.produce seq next = s.endPlane seq :=
  if_pos h

theorem State.produce_open {s : State} {seq : List Pair} (h : seq.length ≠ s.planeSize) (next : Packet) :
    s.produce seq next = (s.setWork (s.work.inPlane next seq)).goto .aPacket :=
  if_neg h

section
variable {β : Type} {view : β → List Byte × BitVec 7} {s : State} {w : Work} {K : List Pair × List Bool → Except Err β}

/-- The pairs of a packet fill the plane, or a packet of data goes on (43_codec_a_rle.md R236). -/
theorem computes_produce {packet : Packet} {seq seq' : List Pair} {rc : Cursor}
    {goOn : Except Err (List Pair × List Bool)}
    (hend : Computes view (((s.setWork ((w.inPlane packet seq).moveTo rc)).goto .aPacket).endPlane seq')
      (K (seq', s.unread rc)))
    (hopen : Computes view ((s.setWork ((w.inPlane .data seq').moveTo rc)).goto .aPacket) (goOn >>= K)) :
    Computes view (((s.setWork ((w.inPlane packet seq).moveTo rc)).goto .aPacket).produce seq' .data)
      ((if seq'.length = Config.planePairs w.width then .ok (seq', s.unread rc) else goOn) >>= K) := by
  by_cases hfull : seq'.length = Config.planePairs w.width
  · rw [if_pos hfull, State.produce_full hfull]
    exact hend
  · rw [if_neg hfull, State.produce_open hfull]
    exact hopen

/-- The packets of a plane are decoded as the loop of `DecodePlane()` does it (43_codec_a_rle.md R236), if what follows the
end of the plane computes the rest. -/
theorem computes_packets (hevents : s.events = [])
    (hend : ∀ rc packet seq seq', rc.bit ≤ 7 → Computes view
      (((s.setWork ((w.inPlane packet seq).moveTo rc)).goto .aPacket).endPlane seq') (K (seq', s.unread rc)))
    (fuel : Nat) (packet : Packet) (seq : List Pair) (rc : Cursor) (hbit : rc.bit ≤ 7)
    (hfuel : (s.unread rc).length < fuel) :
    Computes view ((s.setWork ((w.inPlane packet seq).moveTo rc)).goto .aPacket)
      (decodePlaneFrom s.cfg (Config.planePairs w.width) fuel packet seq (s.unread rc) >>= K) := by
  induction fuel generalizing packet seq rc with
  | zero => omega
  | succ fuel ih =>
    cases packet with
    | rle =>
      rw [decodePlaneFrom, readRun_eq, bind_assoc, bind_assoc]
      refine computes_fetchA hevents hbit (sp := .aRle) (row := fun x => .aRun x.1 x.2) rfl
        (readPacket_within s.cfg) le_rfl (decode_aRle s.cfg) fun x k rc' hk hbit' hlen => ?_
      have hlen : (s.unread rc).length = k + (s.unread rc').length := hlen
      simp only [except_ok_bind]
      by_cases hover : seq.length + (runBase x.1 + x.2) > Config.planePairs w.width
      · rw [if_pos hover]
        exact ⟨_, congrArg Host.Outcome.next (if_pos hover), computes_raise _ _⟩
      · rw [if_neg hover]
        have hpairs := computes_produce (hend rc' .rle seq (seq ++ List.replicate (runBase x.1 + x.2) 0) hbit')
          (ih .data _ rc' hbit' (by omega))
        rw [List.length_append, List.length_replicate] at hpairs
        exact ⟨_, congrArg Host.Outcome.next (if_neg hover), hpairs⟩
    | data =>
      rw [decodePlaneFrom, bind_assoc]
      refine computes_fetchA hevents hbit (sp := .aData) (row := dataRow) rfl
        (readBits_within 2) (by omega) (decode_aData s.cfg) ?_
      rintro v _ rc' ⟨-, rfl⟩ hbit' hlen
      have hlen : (s.unread rc).length = 2 + (s.unread rc').length := hlen
      by_cases hv : v = 0
      · subst hv
        exact ⟨_, rfl, ih .rle seq rc' hbit' (by omega)⟩
      · have hpairs := computes_produce (hend rc' .data seq (seq ++ [BitVec.ofNat 2 v]) hbit')
          (ih .data _ rc' hbit' (by omega))
        rw [List.length_append, List.length_singleton] at hpairs
        rw [dataRow, if_neg hv]
        simp only [if_neg hv]
        exact ⟨_, rfl, hpairs⟩

/-- A plane is decoded as `DecodePlane()` does it (43_codec_a_rle.md R236), if what follows its end computes the rest. -/
theorem computes_plane (hevents : s.events = []) (hbit : w.rc.bit ≤ 7)
    (hend : ∀ rc packet seq seq', rc.bit ≤ 7 → Computes view
      (((s.setWork ((w.inPlane packet seq).moveTo rc)).goto .aPacket).endPlane seq') (K (seq', s.unread rc))) :
    Computes view ((s.setWork w).goto .aStart)
      (decodePlane s.cfg (Config.planePairs w.width) (s.unread w.rc) >>= K) := by
  rw [decodePlane, bind_assoc]
  refine computes_fetchA hevents hbit (sp := .aStart) (row := startRow) rfl
    (readBits_within 1) (by omega) (decode_aStart s.cfg) ?_
  rintro v _ rc ⟨-, rfl⟩ hbit' -
  have hpackets := fun packet =>
    computes_packets hevents hend ((s.unread rc).length + 1) packet [] rc hbit' (Nat.lt_succ_self _)
  by_cases hv : v = 0
  · subst hv
    exact ⟨_, rfl, hpackets .rle⟩
  · rw [startRow, if_neg hv]
    simp only [if_neg hv]
    exact ⟨_, rfl, hpackets .data⟩

end

/-! ### The stream -/

/-- What A_DECOMPRESS reports of a sprite: the data, and INFO with the header values (40_operations.md R150). -/
def Sprite.view (r : Sprite) : List Byte × BitVec 7 :=
  (r.data, infoOf r.width r.order r.mode)

/-- What the stream decoder does with the second plane (43_codec_a_rle.md R250). -/
def decodeSecond (P : Params) (w : Nat) (order : Bool) (mode : Nat) (first : List Pair) (bits : List Bool) :
    Except Err Sprite := do
  let (second, _) ← decodePlane P (Config.planePairs w) bits
  return { data := (reconstruct first second w order mode).data, width := w, order := order, mode := mode }

/-- What the stream decoder does after the order bit (43_codec_a_rle.md R250). -/
def decodePlanes (P : Params) (w : Nat) (order : Bool) (bits : List Bool) : Except Err Sprite := do
  let (first, bits) ← decodePlane P (Config.planePairs w) bits
  let (mode, bits) ← readMode bits
  decodeSecond P w order mode first bits

/-- What the stream decoder does after the header's two nibbles (43_codec_a_rle.md R250). -/
def decodeSized (P : Params) (w h : Nat) (bits : List Bool) : Except Err Sprite :=
  if w ≠ h then .error .nonSquareImage
  else if w = 0 then .error .invalidImageSize
  else do
    let (order, bits) ← readBits 1 bits
    decodePlanes P w (order == 1) bits

/-- The stream decoder in its parts, the header first (43_codec_a_rle.md R250). -/
theorem aDecodeStream_eq (P : Params) (bits : List Bool) :
    aDecodeStream P bits = readSize bits >>= fun x => decodeSized P x.1.1 x.1.2 x.2 := by
  simp only [aDecodeStream, readSize, bind_assoc]
  rfl

theorem reconstruct_data_length (first second : List Pair) (w : Nat) (order : Bool) (mode : Nat) :
    (reconstruct first second w order mode).data.length = Config.dataLen w :=
  repack_length _ _ _

section
variable {s : State} {w : Work}

/-- The padding ends the operation with the rebuilt data (30_encoding.md R98, 40_operations.md R150). -/
theorem answers_aPad (n : Nat) (hlegal : s.cfg.legal) (hwidth : s.work.width ≤ 15) :
    Answers Sprite.view (exec (.aPad n) s)
      (.ok { data := (reconstruct s.work.firstSeq s.work.seq s.work.width s.work.order s.work.mode).data,
             width := s.work.width, order := s.work.order, mode := s.work.mode }) := by
  refine answers_complete (s := s) hlegal ?_ rfl
  exact (reconstruct_data_length _ _ _ _ _).trans_le (dataLen_le_bufSize hlegal hwidth)

/-- The padding is fetched whatever its bits are (30_encoding.md R98). -/
theorem engineStep_aPad (h : s.phase = .aPad) :
    ∃ n rc, engineStep s = exec (.aPad n) (s.setWork (s.work.moveTo rc)) := by
  refine ⟨s.windowPad.length, s.work.rc.advance s.windowPad.length, ?_⟩
  rw [engineStep, State.fetch, h]
  rfl

/-- After the second plane: the padding (43_codec_a_rle.md R250). -/
theorem computes_pad (hevents : s.events = []) (hlegal : s.cfg.legal) (hwidth : w.width ≤ 15) :
    Computes Sprite.view ((s.setWork w).goto .aPad)
      (.ok { data := (reconstruct w.firstSeq w.seq w.width w.order w.mode).data, width := w.width,
             order := w.order, mode := w.mode }) := by
  obtain ⟨n, rc, hstep⟩ := engineStep_aPad (s := (s.setWork w).goto .aPad) rfl
  refine computes_of_step ?_
  rw [step_of_no_events (s := (s.setWork w).goto .aPad) hevents, hstep]
  exact answers_aPad (s := (s.setWork (w.moveTo rc)).goto .aPad) n hlegal hwidth

/-- After the mode field: the second plane, which the padding follows (43_codec_a_rle.md R250). -/
theorem computes_second (hevents : s.events = []) (hlegal : s.cfg.legal) (hbit : w.rc.bit ≤ 7)
    (hwidth : w.width ≤ 15) (hsecond : w.second = true) :
    Computes Sprite.view ((s.setWork w).goto .aStart)
      (decodeSecond s.cfg w.width w.order w.mode w.firstSeq (s.unread w.rc)) := by
  refine computes_plane hevents hbit fun rc packet seq seq' _ => ?_
  have hend : ((s.setWork ((w.inPlane packet seq).moveTo rc)).goto .aPacket).endPlane seq' =
      (s.setWork ((w.inPlane packet seq').moveTo rc)).goto .aPad := if_pos hsecond
  rw [hend]
  exact computes_pad hevents hlegal hwidth

/-- The mode field sets the mode it spells (43_codec_a_rle.md R240). -/
theorem exec_modeToken (s : State) {mode : Nat} (h : mode ≤ 2) :
    exec (modeToken mode) s = .next (s.setMode mode) := by
  interval_cases mode <;> rfl

/-- After the order bit: the first plane, which the mode field follows (43_codec_a_rle.md R250). -/
theorem computes_planes (hevents : s.events = []) (hlegal : s.cfg.legal) (hbit : w.rc.bit ≤ 7)
    (hwidth : w.width ≤ 15) (hsecond : w.second = false) :
    Computes Sprite.view ((s.setWork w).goto .aStart)
      (decodePlanes s.cfg w.width w.order (s.unread w.rc)) := by
  refine computes_plane hevents hbit fun rc packet seq seq' hbit => ?_
  have hend : ((s.setWork ((w.inPlane packet seq).moveTo rc)).goto .aPacket).endPlane seq' =
      (s.setWork { (w.inPlane packet seq').moveTo rc with firstSeq := seq' }).goto .aMode :=
    if_neg (by simp [Work.moveTo, Work.inPlane, hsecond])
  rw [hend]
  refine computes_fetchA hevents hbit (sp := .aMode) (row := modeToken) rfl
    readMode_within (by omega) (decode_aMode s.cfg) ?_
  rintro mode _ rc' ⟨-, hmode⟩ hbit' -
  exact ⟨_, exec_modeToken _ hmode, computes_second hevents hlegal hbit' hwidth rfl⟩

/-- After the header: the order bit (43_codec_a_rle.md R250). -/
theorem computes_order (hevents : s.events = []) (hlegal : s.cfg.legal) (hbit : w.rc.bit ≤ 7)
    (hwidth : w.width ≤ 15) (hsecond : w.second = false) :
    Computes Sprite.view ((s.setWork w).goto .aOrd)
      (readBits 1 (s.unread w.rc) >>= fun x => decodePlanes s.cfg w.width (x.1 == 1) x.2) := by
  refine computes_fetchA hevents hbit (sp := .aOrd) (row := fun o => .aOrd (o == 1)) rfl
    (readBits_within 1) (by omega) (decode_aOrd s.cfg) ?_
  rintro order _ rc - hbit' -
  exact ⟨_, rfl, computes_planes hevents hlegal hbit' hwidth hsecond⟩

/-- The engine at the start of a Codec A stream computes the stream decoder (43_codec_a_rle.md R250). -/
theorem computes_aDecodeStream (hevents : s.events = []) (hlegal : s.cfg.legal) :
    Computes Sprite.view ((s.setWork Work.init).goto .aHdr) (aDecodeStream s.cfg (bitsOfBytes s.inputBytes)) := by
  rw [aDecodeStream_eq]
  have hclass := legal_le_rlClassMax hlegal
  refine computes_fetchA hevents (Nat.le_refl 7) (sp := .aHdr) (row := fun x => .aHdr x.1 x.2) rfl
    readSize_within (by omega) (decode_aHdr s.cfg) ?_
  rintro ⟨w, h⟩ _ rc ⟨-, hw⟩ hbit -
  unfold decodeSized
  refine ⟨_, rfl, ?_⟩
  split_ifs with hsquare hsize
  · exact computes_raise _ _
  · exact computes_raise _ _
  · exact computes_order hevents hlegal hbit hw rfl

end

/-! ### Bytes after the stream -/

/-- More turns and more bits do not change a plane that has been decoded (43_codec_a_rle.md R236). -/
theorem decodePlaneFrom_append {P : Params} {n : Nat} {fuel fuel' : Nat} {packet : Packet} {seq plane : List Pair}
    {bits rest : List Bool} (more : List Bool) (hfuel : fuel ≤ fuel')
    (h : decodePlaneFrom P n fuel packet seq bits = .ok (plane, rest)) :
    decodePlaneFrom P n fuel' packet seq (bits ++ more) = .ok (plane, rest ++ more) := by
  induction fuel generalizing fuel' packet seq bits with
  | zero => cases h
  | succ fuel ih =>
    obtain ⟨fuel', rfl⟩ := Nat.exists_eq_add_of_le' hfuel
    cases packet with
    | rle =>
      rw [decodePlaneFrom, except_bind_eq_ok] at h
      obtain ⟨⟨run, bits'⟩, hrun, h⟩ := h
      rw [← Nat.add_assoc, decodePlaneFrom, (readRun_within P).append hrun more]
      simp only [except_ok_bind] at h ⊢
      split_ifs at h ⊢ with hover hfull
      · cases h
        rfl
      · exact ih (by omega) h
    | data =>
      rw [decodePlaneFrom, except_bind_eq_ok] at h
      obtain ⟨⟨v, bits'⟩, hv, h⟩ := h
      rw [← Nat.add_assoc, decodePlaneFrom, (readBits_within 2).append hv more]
      simp only [except_ok_bind] at h ⊢
      split_ifs at h ⊢ with hzero hfull
      · exact ih (by omega) h
      · cases h
        rfl
      · exact ih (by omega) h

theorem decodePlane_append {P : Params} {n : Nat} {plane : List Pair} {bits rest : List Bool} (more : List Bool)
    (h : decodePlane P n bits = .ok (plane, rest)) :
    decodePlane P n (bits ++ more) = .ok (plane, rest ++ more) := by
  rw [decodePlane, except_bind_eq_ok] at h
  obtain ⟨⟨v, bits'⟩, hv, h⟩ := h
  rw [decodePlane, (readBits_within 1).append hv more]
  exact decodePlaneFrom_append more (by simp) h

/-- A stream that decodes decodes to the same sprite with any bits after it (40_operations.md R150). -/
theorem aDecodeStream_append {P : Params} {r : Sprite} {bits : List Bool} (more : List Bool)
    (h : aDecodeStream P bits = .ok r) : aDecodeStream P (bits ++ more) = .ok r := by
  rw [aDecodeStream_eq, except_bind_eq_ok] at h
  obtain ⟨⟨size, bits'⟩, hsize, h⟩ := h
  rw [aDecodeStream_eq, readSize_within.append hsize more]
  unfold decodeSized at h
  split_ifs at h with hne hzero
  simp only [except_bind_eq_ok, decodePlanes, decodeSecond] at h
  obtain ⟨⟨order, bits₁⟩, horder, ⟨first, bits₂⟩, hfirst, ⟨mode, bits₃⟩, hmode, ⟨second, bits₄⟩, hsecond, h⟩ := h
  cases h
  simp only [except_ok_bind, decodeSized, if_neg hne, if_neg hzero, decodePlanes, decodeSecond,
    (readBits_within 1).append horder more, decodePlane_append more hfirst, readMode_within.append hmode more,
    decodePlane_append more hsecond]
  rfl

/-- The data of a decoded stream are 16·w² bytes (40_operations.md R150). -/
theorem aDecodeStream_length {P : Params} {r : Sprite} {bits : List Bool} (h : aDecodeStream P bits = .ok r) :
    r.data.length = Config.dataLen r.width := by
  rw [aDecodeStream_eq, except_bind_eq_ok] at h
  obtain ⟨⟨size, bits'⟩, -, h⟩ := h
  unfold decodeSized at h
  split_ifs at h with hne hzero
  simp only [except_bind_eq_ok, decodePlanes, decodeSecond] at h
  obtain ⟨_, -, _, -, _, -, _, -, h⟩ := h
  cases h
  exact reconstruct_data_length _ _ _ _ _

/-! ### The statement -/

/-- Settles O51: one move starts the decoder, and the moves that follow compute it; a stream that decodes takes no notice of
what follows it. -/
theorem aDecompressComputesTheDecoder : Obligations.ADecompressComputesTheDecoder := by
  unfold Obligations.ADecompressComputesTheDecoder
  refine ⟨rfl, fun s hlegal hstarted hop hfits => ?_⟩
  obtain ⟨hphase, hevents, -⟩ := hstarted
  have hstart : step s = .next ((s.setWork Work.init).goto .aHdr) := by
    rw [step_of_dispatch hphase hevents, hop]
    exact congrArg Host.Outcome.next (State.withInput_of_le hfits _)
  obtain ⟨k, t, hcompletes, hreports⟩ :=
    computes_of_step ⟨_, hstart, computes_aDecodeStream hevents hlegal⟩
  refine ⟨k, t, hcompletes, fun hempty => ?empty, ?result⟩
  case empty =>
    have hinput : s.inputBytes = [] := by simp [State.inputBytes, hempty]
    rw [hinput] at hreports
    exact hreports
  case result =>
    split
    next r hok =>
      have hdecode : aDecodeStream s.cfg (bitsOfBytes s.inputBytes) = .ok r := hok
      rw [hdecode] at hreports
      refine ⟨hreports, aDecodeStream_length hdecode, fun more => ?_⟩
      rw [aDecode, bitsOfBytes_append]
      exact aDecodeStream_append _ hdecode
    next e herr =>
      have hdecode : aDecodeStream s.cfg (bitsOfBytes s.inputBytes) = .error e := herr
      rw [hdecode] at hreports
      exact hreports

end Sys2Proof.Machine
end

section
/-! SUPPORT. B_DECOMPRESS run command by command computes the decoder of 44_codec_b_commands.md R290 (40_operations.md
R160). -/
namespace Sys2Proof.Machine

open Reader

/-! ### The readers of the decoder -/

theorem readBytes_cons (n : Nat) (b : Byte) (bs : List Byte) :
    readBytes (n + 1) (bitsOfBytes (b :: bs)) =
      readBytes n (bitsOfBytes bs) >>= fun x => .ok (b :: x.1, x.2) := by
  have hb : readBits 8 (bitsOfByte b ++ bitsOfBytes bs) = .ok (b.toNat, bitsOfBytes bs) :=
    readBits_bitsOfNat 8 b.toNat _ b.isLt
  simp [readBytes, hb]

/-- `GetByte()` for each of `n` bytes takes the first `n` bytes left (44_codec_b_commands.md R291). -/
theorem readBytes_of_le {n : Nat} {bs : List Byte} (h : n ≤ bs.length) :
    readBytes n (bitsOfBytes bs) = .ok (bs.take n, bitsOfBytes (bs.drop n)) := by
  induction n generalizing bs with
  | zero => rfl
  | succ n ih =>
    cases bs with
    | nil => simp at h
    | cons b bs =>
      rw [readBytes_cons, ih (Nat.le_of_succ_le_succ h)]
      rfl

/-- The end of input inside a payload (44_codec_b_commands.md R291). -/
theorem readBytes_of_lt {n : Nat} {bs : List Byte} (h : bs.length < n) :
    readBytes n (bitsOfBytes bs) = .error .truncatedStream := by
  induction n generalizing bs with
  | zero => omega
  | succ n ih =>
    cases bs with
    | nil => rfl
    | cons b bs =>
      rw [readBytes_cons, ih (Nat.lt_of_succ_lt_succ h)]
      rfl

/-- A payload of `n` bytes takes `8n` bits. -/
theorem readBytes_within (n : Nat) : Within (8 * n) (fun _ _ => True) (readBytes n) := by
  induction n with
  | zero => exact Within.pure trivial
  | succ n ih =>
    refine Within.mono ((readBits_within 8).bind (m := 8 * n) ?_) (by omega) fun _ _ h => h
    rintro b _ -
    exact ih.bind (m := 0) fun _ _ _ => Within.pure trivial

/-- A command takes its payload and looks at no bit after it (44_codec_b_commands.md R303). -/
theorem runCommand_within (P : Params) (kind len : Nat) (out : List Byte) :
    Within (8 * len + 16) (fun _ _ => True) (runCommand P kind len out) := by
  have hpayload : ∀ (n : Nat) (g : List Byte → List Byte), 8 * n ≤ 8 * len + 16 →
      Within (8 * len + 16) (fun _ _ => True) fun bits => readBytes n bits >>= fun x =>
        appendFits P out (g x.1) >>= fun out => .ok (out, x.2) := fun n g hn =>
    Within.mono ((readBytes_within n).bind (m := 0) (T := fun _ _ => True) fun x _ _ =>
      Within.const (appendFits P out (g x))) hn fun _ _ _ => trivial
  rcases kind with _ | _ | _ | _ | kind
  · exact hpayload len id (by omega)
  · exact hpayload 1 (fun bs => List.replicate len (bs.getD 0 0)) (by omega)
  · exact hpayload 2 (altBytes len) (by omega)
  · exact (Within.const _).mono (by omega) fun _ _ _ => trivial
  · refine Within.mono (decodeOffset_within.bind (m := 0) ?_) (by omega) fun _ _ h => h
    rintro o k -
    exact Within.ite (fun _ => Within.error _) fun _ =>
      Within.ite (fun _ => Within.error _) fun _ => Within.pure trivial

/-- More turns and more bits do not change an output that has been decoded (44_codec_b_commands.md R304). -/
theorem bDecodeFrom_append {P : Params} {fuel fuel' : Nat} {out result : List Byte} {bits : List Bool}
    (more : List Bool) (hfuel : fuel ≤ fuel') (h : bDecodeFrom P fuel out bits = .ok result) :
    bDecodeFrom P fuel' out (bits ++ more) = .ok result := by
  induction fuel generalizing fuel' out bits with
  | zero => cases h
  | succ fuel ih =>
    obtain ⟨fuel', rfl⟩ := Nat.exists_eq_add_of_le' hfuel
    rw [bDecodeFrom, except_bind_eq_ok] at h
    obtain ⟨⟨i, bits'⟩, hheader, h⟩ := h
    rw [← Nat.add_assoc, bDecodeFrom, decodeHeader_within.append hheader more, except_ok_bind]
    cases hi : headerOf i with
    | stop => simpa only [hi] using h
    | reserved => simp only [hi, reduceCtorEq] at h
    | command kind len =>
      simp only [hi, except_bind_eq_ok] at h
      obtain ⟨⟨out', rest⟩, hcommand, h⟩ := h
      simp only [hi, (runCommand_within P kind len out).append hcommand more, except_ok_bind]
      exact ih (by omega) h

/-! ### One move of the decoder -/

/-- The working registers with the read index moved. -/
def Work.skipTo (w : Work) (rp : Nat) : Work :=
  { w with rp := rp }

/-- IN[a .. a + n) as a part of `input` (20_memory.md R68). -/
theorem State.inBytes_eq (s : State) (a n : Nat) : s.inBytes a n = (s.inputBytes.drop a).take n := by
  rw [s.inBytes_eq_map]
  refine List.ext_getElem ?_ fun j _ _ => ?_
  · simp
  · simp [State.inputBytes]

/-- The bits of `input` from a read index on (44_codec_b_commands.md R291). -/
def State.unreadB (s : State) (rp : Nat) : List Bool :=
  bitsOfBytes (s.inputBytes.drop rp)

section
variable {β : Type} {view : β → List Byte × BitVec 7} {s : State} {w : Work} {p : Phase} {sp : Space}
  {K : Instr × List Bool → Except Err β}

/-- A move in a Codec B phase: it fetches the row that the bytes left spell and runs it with the read index past it. What
follows has to compute the rest of the decoder, `K`. -/
theorem computes_fetchB (hevents : s.events = [])
    (hfetch : ((s.setWork w).goto p).fetch = ((s.setWork w).goto p).fetchB sp)
    (hf : Within 16 (fun i k => (k = 8 ∨ k = 16) ∧ i.space = sp) (decode s.cfg sp))
    (hrun : ∀ i rp, i.space = sp → w.rp < rp → rp ≤ s.lInLen.toNat →
      Answers view (exec i ((s.setWork (w.skipTo rp)).goto p)) (K (i, s.unreadB rp))) :
    Computes view ((s.setWork w).goto p) (decode s.cfg sp (s.unreadB w.rp) >>= K) := by
  have hwindow : ((s.setWork w).goto p).windowB = (s.unreadB w.rp).take 16 := by
    rw [State.unreadB, ← bitsOfBytes_take _ 2, ← State.inBytes_eq]
    rfl
  refine computes_of_step ?_
  rw [step_of_no_events (s := (s.setWork w).goto p) hevents, engineStep, hfetch, State.fetchB, hwindow,
    State.goto_cfg, State.setWork_cfg]
  rcases hf.window le_rfl (s.unreadB w.rp) with
    ⟨i, used, rest, hbits, ⟨hbytes, hspace⟩, hok, left, hleft, hused⟩ | ⟨e, hall, hcut⟩
  · have hrest : s.unreadB (w.rp + used.length / 8) = rest := by
      rw [State.unreadB, ← List.drop_drop, bitsOfBytes_drop, Nat.mul_div_cancel' (by omega)]
      change (s.unreadB w.rp).drop used.length = rest
      rw [hbits, List.drop_left]
    have hlength := congrArg List.length hbits
    simp only [State.unreadB, bitsOfBytes_length, List.length_drop, State.inputBytes_length,
      List.length_append] at hlength
    have hrun := hrun i (w.rp + used.length / 8) hspace (by omega) (by omega)
    rw [hrest] at hrun
    rw [hleft, hok]
    simp only [except_ok_bind, hused]
    exact hrun
  · rw [hcut, hall]
    exact answers_raise _ e

end

/-! ### The rows of the decoder -/

/-- What a command does after its header (44_codec_b_commands.md R290): a copy waits for its offset. -/
def State.runKind (s : State) (kind len : Nat) : State :=
  match kind with
  | 0 => s.runLit len
  | 1 => s.runIter len
  | 2 => s.runAlt len
  | 3 => s.runZero len
  | _ => s.awaitOffset (copyKindOf kind) len

/-- What a header does (44_codec_b_commands.md R290). -/
def State.runHeader (s : State) : Header → State
  | .command kind len => s.runKind kind len
  | .stop => s.complete s.work.out 0
  | .reserved => s.raise .invalidCommand

/-- The meaning of a header row is that of the header it is (30_encoding.md R100, R105). -/
theorem exec_header {i : Instr} (h : i.space = .bHeader) (s : State) :
    exec i s = .next (s.runHeader (headerOf i)) := by
  cases i <;> cases h <;> rfl

/-- The meaning of an offset row is the waiting copy from its source (44_codec_b_commands.md R273). -/
theorem exec_offset {i : Instr} (h : i.space = .bOffset) (s : State) :
    exec i s = .next (s.runCopy (offsetSource i s.work.out.length)) := by
  cases i <;> cases h <;> rfl

/-! ### A command -/

/-- What B_DECOMPRESS reports of an output: its bytes and INFO 0 (40_operations.md R160). -/
def outputView (out : List Byte) : List Byte × BitVec 7 :=
  (out, 0)

section
variable {s : State} {w : Work} {K : List Byte × List Bool → Except Err (List Byte)}

/-- The engine scanning on after `w` computes what `K` goes on to. -/
def ScansOn (s : State) (w : Work) (K : List Byte × List Bool → Except Err (List Byte)) : Prop :=
  ∀ w', w'.out.length ≤ s.cfg.bufSize → w.rp ≤ w'.rp →
    Computes outputView ((s.setWork w').goto .bScan) (K (w'.out, s.unreadB w'.rp))

/-- Scanning on after more bytes have been read. -/
theorem ScansOn.skipTo {rp : Nat} (hnext : ScansOn s w K) (h : w.rp ≤ rp) : ScansOn s (w.skipTo rp) K :=
  fun w' hout hrp => hnext w' hout (h.trans hrp)

/-- An append, or OUTPUT_OVERFLOW (44_codec_b_commands.md R302). -/
theorem computes_append (hnext : ScansOn s w K) (p : Phase) (bs : List Byte) :
    Computes outputView (((s.setWork w).goto p).append bs)
      (appendFits s.cfg w.out bs >>= fun out => K (out, s.unreadB w.rp)) := by
  rcases ((s.setWork w).goto p).append_cases bs with ⟨hfits, happend⟩ | ⟨hover, happend⟩
  · have hfits : (w.out ++ bs).length ≤ s.cfg.bufSize := by
      rw [List.length_append]
      exact hfits
    rw [happend, appendFits, if_neg (by rw [← List.length_append]; omega)]
    exact hnext { w with out := w.out ++ bs } hfits le_rfl
  · have hover : s.cfg.bufSize < w.out.length + bs.length := hover
    rw [happend, appendFits, if_pos hover]
    exact computes_raise _ _

/-- A command with a payload of `n` bytes (44_codec_b_commands.md R303 steps 3, 5 and 6). -/
theorem computes_payload (hnext : ScansOn s w K) (p : Phase) (n : Nat) (f : List Byte → List Byte) :
    Computes outputView (((s.setWork w).goto p).withPayload n f)
      (readBytes n (s.unreadB w.rp) >>= fun x =>
        appendFits s.cfg w.out (f x.1) >>= fun out => K (out, x.2)) := by
  have hleft : (s.inputBytes.drop w.rp).length = s.lInLen.toNat - w.rp := by simp
  rcases ((s.setWork w).goto p).withPayload_cases n f with ⟨hfits, hpayload⟩ | ⟨hmissing, hpayload⟩
  · have hfits : w.rp + n ≤ s.lInLen.toNat ∨ n = 0 := hfits
    have hbytes : (List.range n).map (fun j => s.readIn (w.rp + j)) = (s.inputBytes.drop w.rp).take n := by
      rw [← s.inBytes_eq, s.inBytes_eq_map, Nat.min_eq_left (by omega)]
    rw [hpayload, State.unreadB, readBytes_of_le (by omega), List.drop_drop]
    change Computes outputView
      (((s.setWork (w.skipTo (w.rp + n))).goto p).append (f ((List.range n).map fun j => s.readIn (w.rp + j)))) _
    rw [hbytes]
    exact computes_append (hnext.skipTo (Nat.le_add_right _ _)) p _
  · have hmissing : s.lInLen.toNat < w.rp + n ∧ 0 < n := hmissing
    rw [hpayload, State.unreadB, readBytes_of_lt (by omega)]
    exact computes_raise _ _

/-- A copy, its checks first (44_codec_b_commands.md R303 steps 4 to 6). -/
theorem computes_runCopy (hnext : ScansOn s w K) (p : Phase) (src : Int) :
    Computes outputView (((s.setWork w).goto p).runCopy src)
      (if ¬ offsetOk w.copy src w.len w.out.length then .error .invalidOffset
        else if w.out.length + w.len > s.cfg.bufSize then .error .outputOverflow
        else K (copyBytes w.copy w.len src.toNat w.out, s.unreadB w.rp)) := by
  have hcases := ((s.setWork w).goto p).runCopy_cases src
  simp only [State.goto_work, State.setWork_work, State.goto_cfg, State.setWork_cfg] at hcases
  rcases hcases with ⟨hoff, hcopy⟩ | ⟨hoff, hover, hcopy⟩ | ⟨hoff, hfits, hcopy⟩
  · rw [hcopy, if_pos (by simp [hoff])]
    exact computes_raise _ _
  · rw [hcopy, if_neg (by simp [hoff]), if_pos hover]
    exact computes_raise _ _
  · rw [hcopy, if_neg (by simp [hoff]), if_neg (by omega)]
    exact hnext { w with out := copyBytes w.copy w.len src.toNat w.out } (by rwa [copyBytes_length]) le_rfl

/-- A waiting copy (44_codec_b_commands.md R290, PAYLOAD). -/
theorem computes_copy (hevents : s.events = []) (hnext : ScansOn s w K) :
    Computes outputView ((s.setWork w).goto .bPayload)
      (decodeOffset (s.unreadB w.rp) >>= fun x =>
        if ¬ offsetOk w.copy (offsetSource x.1 w.out.length) w.len w.out.length then .error .invalidOffset
        else if w.out.length + w.len > s.cfg.bufSize then .error .outputOverflow
        else K (copyBytes w.copy w.len (offsetSource x.1 w.out.length).toNat w.out, x.2)) := by
  refine computes_fetchB hevents (sp := .bOffset) rfl decodeOffset_within fun i rp hspace hrp _ => ?_
  exact ⟨_, exec_offset hspace _, computes_runCopy (hnext.skipTo hrp.le) .bPayload _⟩

/-- A command after its header (44_codec_b_commands.md R303). -/
theorem computes_command (hevents : s.events = []) (hnext : ScansOn s w K) (kind len : Nat) :
    Computes outputView (((s.setWork w).goto .bScan).runKind kind len)
      (runCommand s.cfg kind len w.out (s.unreadB w.rp) >>= K) := by
  rcases kind with _ | _ | _ | _ | kind <;> simp only [runCommand, bind_assoc, pure_bind]
  · exact computes_payload hnext .bScan len id
  · exact computes_payload hnext .bScan 1 fun bs => List.replicate len (bs.getD 0 0)
  · exact computes_payload hnext .bScan 2 (altBytes len)
  · exact computes_append hnext .bScan (List.replicate len 0)
  · have hcopy := computes_copy (w := { w with copy := copyKindOf (kind + 4), len := len }) hevents hnext
    refine (congrArg (Computes outputView _) (bind_congr fun x => ?_)).mp hcopy
    dsimp only
    split_ifs <;> rfl

/-- The commands are decoded as the loop of `B_Decode` does it (44_codec_b_commands.md R290). -/
theorem computes_commands (hevents : s.events = []) (hlegal : s.cfg.legal) (fuel : Nat)
    (hout : w.out.length ≤ s.cfg.bufSize) (hfuel : s.lInLen.toNat - w.rp < fuel) :
    Computes outputView ((s.setWork w).goto .bScan) (bDecodeFrom s.cfg fuel w.out (s.unreadB w.rp)) := by
  induction fuel generalizing w with
  | zero => omega
  | succ fuel ih =>
    refine computes_fetchB hevents (sp := .bHeader) rfl decodeHeader_within ?_
    intro i rp hspace hrp hle
    have hexec := exec_header hspace ((s.setWork (w.skipTo rp)).goto .bScan)
    cases hi : headerOf i with
    | stop =>
      rw [hi] at hexec
      simp only [hi]
      exact answers_complete (s := (s.setWork (w.skipTo rp)).goto .bScan) (w := w.skipTo rp) hlegal hout hexec
    | reserved =>
      rw [hexec, hi]
      simp only [hi]
      exact answers_raise _ _
    | command kind len =>
      simp only [hi]
      rw [hi] at hexec
      refine ⟨_, hexec, computes_command (w := w.skipTo rp) hevents (fun w' hout' hrp' => ?_) kind len⟩
      have hrp' : rp ≤ w'.rp := hrp'
      exact ih hout' (by omega)

end

/-! ### The statement -/

/-- Settles O52: one move starts the decoder, and the moves that follow compute it; a stream that decodes takes no notice of
what follows it. -/
theorem bDecompressComputesTheDecoder : Obligations.BDecompressComputesTheDecoder := by
  unfold Obligations.BDecompressComputesTheDecoder
  refine ⟨rfl, fun P => rfl, fun s hlegal hstarted hop hfits => ?_⟩
  obtain ⟨hphase, hevents, -⟩ := hstarted
  have hstart : step s = .next ((s.setWork Work.init).goto .bScan) := by
    rw [step_of_dispatch hphase hevents, hop]
    exact congrArg Host.Outcome.next (State.withInput_of_le hfits _)
  have hscan : Computes outputView ((s.setWork Work.init).goto .bScan) (bDecode s.cfg s.inputBytes) :=
    computes_commands hevents hlegal (s.inputBytes.length + 1) (Nat.zero_le _) (by simp)
  obtain ⟨k, t, hcompletes, hreports⟩ := computes_of_step ⟨_, hstart, hscan⟩
  refine ⟨k, t, hcompletes, fun hempty => ?empty, ?result⟩
  case empty =>
    have hinput : s.inputBytes = [] := by simp [State.inputBytes, hempty]
    rw [hinput] at hreports
    exact hreports
  case result =>
    split
    next out hok =>
      have hdecode : bDecode s.cfg s.inputBytes = .ok out := hok
      rw [hdecode] at hreports
      refine ⟨hreports, fun more => ?_⟩
      rw [bDecode, bitsOfBytes_append]
      exact bDecodeFrom_append _ (by simp) hdecode
    next e herr =>
      have hdecode : bDecode s.cfg s.inputBytes = .error e := herr
      rw [hdecode] at hreports
      exact hreports

end Sys2Proof.Machine
end

section
/-! SUPPORT. START, CLEAR and the first move of an operation (40_operations.md R131 to R133). -/
namespace Sys2Proof.Machine

/-! ### Writes of CTRL -/

/-- Out of reset a word written at offset 0 goes to CTRL (10_state.md R21). -/
theorem hostStep_write_ctrl {s : State} (hrst : s.rst = false) (v : Word) :
    hostStep (.access (.write 0 4 v)) s = .next (s.writeCtrl v) := by
  have htarget : target s.cfg (0 : BitVec 18).toNat 4 = .reg .ctrl := rfl
  simp only [hostStep, hrst, Bool.false_eq_true, if_false, State.hostAccess_write_reg v htarget]
  rfl

/-- While IDLE a write of CTRL sets IRQ_EN, then CLEAR acts, then START (10_state.md R22). -/
theorem State.writeCtrl_of_idle {s : State} (hidle : s.phase = .idle) (v : Word) :
    s.writeCtrl v = { s with irqEn := v.getLsbD 2 }.actCtrl (v.getLsbD 1) (v.getLsbD 0) := by
  simp [State.writeCtrl, State.busy, hidle]

/-- START alone, or after CLEAR in the same write, leaves PROTO only where CLEAR was not asked for (10_state.md R22,
40_operations.md R131). -/
theorem State.actCtrl_start (s : State) (clear : Bool) :
    s.actCtrl clear true = { s.start with proto := s.proto && !clear } := by
  cases clear with
  | false => simp only [State.actCtrl, Bool.not_false, Bool.and_true]; rfl
  | true => simp only [State.actCtrl, Bool.not_true, Bool.and_false]; rfl

/-- Settles O42: out of reset the write goes to CTRL; while IDLE START acts after CLEAR, while BUSY it sets PROTO. -/
theorem startLatchesTheOperands : Obligations.StartLatchesTheOperands := by
  unfold Obligations.StartLatchesTheOperands
  intro s v hrst hstart
  rw [hostStep_write_ctrl hrst]
  refine ⟨fun hidle => ?idle, fun hbusy => ?busy⟩
  case idle =>
    rw [State.writeCtrl_of_idle hidle, hstart, State.actCtrl_start]
    exact ⟨Work.init, _, rfl, rfl, rfl, rfl, rfl, rfl, rfl⟩
  case busy =>
    rw [State.writeCtrl_of_busy hbusy, hstart, Bool.or_true]

/-- Settles O43: out of reset the write goes to CTRL; while IDLE CLEAR acts and START after it, while BUSY only IRQ_EN is
written. -/
theorem clearErasesTheReport : Obligations.ClearErasesTheReport := by
  unfold Obligations.ClearErasesTheReport
  intro s v hrst hclear
  rw [hostStep_write_ctrl hrst]
  refine ⟨fun hstart hidle => ?idle, fun hstart hbusy => ?busy, fun hstart hidle => ?both⟩
  case idle =>
    rw [State.writeCtrl_of_idle hidle, hclear, hstart]
    exact ⟨_, rfl, rfl, rfl⟩
  case busy =>
    rw [State.writeCtrl_of_busy hbusy, hstart, Bool.or_false]
  case both =>
    rw [State.writeCtrl_of_idle hidle, hclear, hstart]
    exact ⟨_, rfl, rfl⟩

/-! ### The first move of an operation -/

/-- The five operation codes (30_encoding.md R90). -/
theorem lOp_cases {op : BitVec 3} (hlo : 1 ≤ op.toNat) (hhi : op.toNat ≤ 5) :
    op = 1 ∨ op = 2 ∨ op = 3 ∨ op = 4 ∨ op = 5 := by
  revert op
  decide

/-- The other three codes are reserved (30_encoding.md R107). -/
theorem lOp_reserved {op : BitVec 3} (h : ¬ (1 ≤ op.toNat ∧ op.toNat ≤ 5)) : op = 0 ∨ op = 6 ∨ op = 7 := by
  revert op
  decide

/-- An operation whose input is too long does not run (40_operations.md R133). -/
theorem State.withInput_of_lt {s : State} (h : s.cfg.bufSize < s.lInLen.toNat) (run : List Byte → State) :
    s.withInput run = s.raise .invalidLength := by
  rcases s.withInput_cases run with ⟨hle, -⟩ | ⟨-, hraise⟩
  · omega
  · exact hraise

/-- Settles O40: the code's row runs, and each of the five operations checks the length before anything else. -/
theorem commonChecksComeFirst : Obligations.CommonChecksComeFirst := by
  unfold Obligations.CommonChecksComeFirst
  intro s hphase hevents
  rw [step_of_dispatch hphase hevents]
  refine ⟨fun hop => ?reserved, fun hlo hhi hlong => ?length, fun hfits => ⟨?input, ?rows⟩⟩
  case reserved =>
    exact exec_reserved s (decodeOp_reserved (lOp_reserved hop))
  case length =>
    rcases lOp_cases hlo hhi with hop | hop | hop | hop | hop <;> rw [hop] <;>
      exact congrArg Host.Outcome.next (State.withInput_of_lt hlong _)
  case input =>
    rw [State.input, if_neg (not_lt.2 hfits), State.inBytes_eq, List.drop_zero,
      List.take_of_length_le (by simp)]
    rfl
  case rows =>
    exact ⟨fun hop => by rw [hop]; rfl, fun hop => by rw [hop]; rfl, fun hop => by rw [hop]; rfl,
      fun hop => by rw [hop]; rfl, fun hop => by rw [hop]; rfl⟩

end Sys2Proof.Machine
end

section
/-! SUPPORT. The Codec A compressors (40_operations.md R140, R145): the size of a stream (43_codec_a_rle.md R246), and the
choice among the six of A_COMPRESS_AUTO. -/
namespace Sys2Proof.Machine

/-! ### The size of a stream -/

/-- A run of `n ≥ 1` zero pairs takes at most `2n` bits (43_codec_a_rle.md R220). -/
theorem runCode_length_le {n : Nat} (h : 1 ≤ n) : (runCode n).length ≤ 2 * n := by
  have hpos : 1 ≤ Nat.log2 (n + 1) := (Nat.le_log2 (by omega)).2 (by omega)
  have hlog : Nat.log2 (n + 1) < n + 1 := (Nat.log2_lt (by omega)).2 Nat.lt_two_pow_self
  have hlen : (runCode n).length = 2 * (Nat.log2 (n + 1) - 1) + 2 := Laws.EncodeLength.aRun _ _
  omega

section
variable (count : Nat) (wb : List Bool)

/-! The plane encoder, case by case (43_codec_a_rle.md R231, R232). -/

theorem PlaneEnc.start_zero (seq : List Pair) :
    PlaneEnc.start wb (0 :: seq) = ⟨true, 0, wb ++ encode .aS0⟩ := rfl

theorem PlaneEnc.start_pair {v : Pair} (hv : v ≠ 0) (seq : List Pair) :
    PlaneEnc.start wb (v :: seq) = ⟨false, 0, wb ++ encode .aS1⟩ := by
  have hrle : (v == 0) = false := beq_false_of_ne hv
  simp only [PlaneEnc.start, List.headD_cons, hrle]
  rfl

theorem PlaneEnc.put_run_zero : PlaneEnc.put ⟨true, count, wb⟩ 0 = ⟨true, count + 1, wb⟩ := rfl

theorem PlaneEnc.put_run_pair {v : Pair} (hv : v ≠ 0) :
    PlaneEnc.put ⟨true, count, wb⟩ v = ⟨false, count, wb ++ runCode count ++ encode (.aP v)⟩ :=
  if_neg hv

theorem PlaneEnc.put_data_zero : PlaneEnc.put ⟨false, count, wb⟩ 0 = ⟨true, 1, wb ++ encode .aT⟩ := rfl

theorem PlaneEnc.put_data_pair {v : Pair} (hv : v ≠ 0) :
    PlaneEnc.put ⟨false, count, wb⟩ v = ⟨false, count, wb ++ encode (.aP v)⟩ :=
  if_neg hv

theorem PlaneEnc.flush_run : PlaneEnc.flush ⟨true, count, wb⟩ = ⟨true, count, wb ++ runCode count⟩ := rfl

theorem PlaneEnc.flush_data : PlaneEnc.flush ⟨false, count, wb⟩ = ⟨false, count, wb⟩ := rfl

end

/-- How much the plane encoder has written after `k` pairs, beyond the `base` bits before the plane: three bits a pair, and of
the run being counted only the two bits of the terminator before it (43_codec_a_rle.md R232, R246). -/
def PlaneEnc.Bounded (base k : Nat) (st : PlaneEnc) : Prop :=
  if st.rle then 1 ≤ st.count ∧ st.wb.length + 3 * st.count ≤ base + 3 * k + 2
  else st.wb.length ≤ base + 3 * k

section
variable {base k count : Nat} {wb : List Bool}

theorem PlaneEnc.bounded_run :
    PlaneEnc.Bounded base k ⟨true, count, wb⟩ ↔ 1 ≤ count ∧ wb.length + 3 * count ≤ base + 3 * k + 2 := Iff.rfl

theorem PlaneEnc.bounded_data : PlaneEnc.Bounded base k ⟨false, count, wb⟩ ↔ wb.length ≤ base + 3 * k := by
  simp [PlaneEnc.Bounded]

/-- A plane's first pair takes its three bits with the start bit (43_codec_a_rle.md R231). -/
theorem PlaneEnc.bounded_start (wb : List Bool) (v : Pair) (seq : List Pair) :
    ((PlaneEnc.start wb (v :: seq)).put v).Bounded wb.length 1 := by
  by_cases hv : v = 0
  · subst hv
    rw [PlaneEnc.start_zero, PlaneEnc.put_run_zero, PlaneEnc.bounded_run]
    simp [encode]
  · rw [PlaneEnc.start_pair wb hv, PlaneEnc.put_data_pair _ _ hv, PlaneEnc.bounded_data]
    simp [encode]

/-- Each further pair takes at most three bits, the run that it may end included (43_codec_a_rle.md R232). -/
theorem PlaneEnc.bounded_put {st : PlaneEnc} (h : st.Bounded base k) (v : Pair) :
    (st.put v).Bounded base (k + 1) := by
  obtain ⟨rle, count, wb⟩ := st
  by_cases hv : v = 0
  · subst hv
    cases rle with
    | true =>
      rw [PlaneEnc.bounded_run] at h
      rw [PlaneEnc.put_run_zero, PlaneEnc.bounded_run]
      omega
    | false =>
      rw [PlaneEnc.bounded_data] at h
      have hterm : (encode .aT).length = 2 := Laws.EncodeLength.aT
      rw [PlaneEnc.put_data_zero, PlaneEnc.bounded_run, List.length_append]
      omega
  · have hpair : (encode (.aP v)).length = 2 := Laws.EncodeLength.aP v
    cases rle with
    | true =>
      obtain ⟨hcount, hwb⟩ := PlaneEnc.bounded_run.1 h
      have hrun := runCode_length_le hcount
      rw [PlaneEnc.put_run_pair _ _ hv, PlaneEnc.bounded_data, List.length_append, List.length_append]
      omega
    | false =>
      rw [PlaneEnc.bounded_data] at h
      rw [PlaneEnc.put_data_pair _ _ hv, PlaneEnc.bounded_data, List.length_append]
      omega

/-- The bound holds along a plane (43_codec_a_rle.md R232). -/
theorem PlaneEnc.bounded_foldl {st : PlaneEnc} (h : st.Bounded base k) (seq : List Pair) :
    (seq.foldl PlaneEnc.put st).Bounded base (k + seq.length) := by
  induction seq generalizing k st with
  | nil => exact h
  | cons v seq ih =>
    rw [List.length_cons, Nat.add_comm seq.length 1, ← Nat.add_assoc]
    exact ih (PlaneEnc.bounded_put h v)

/-- The final run takes the bits its pairs have left over, and one more. -/
theorem PlaneEnc.flush_length_le {st : PlaneEnc} (h : st.Bounded base k) :
    st.flush.wb.length ≤ base + 3 * k + 1 := by
  obtain ⟨rle, count, wb⟩ := st
  cases rle with
  | true =>
    obtain ⟨hcount, hwb⟩ := PlaneEnc.bounded_run.1 h
    have hrun := runCode_length_le hcount
    rw [PlaneEnc.flush_run, List.length_append]
    omega
  | false =>
    rw [PlaneEnc.bounded_data] at h
    rw [PlaneEnc.flush_data]
    exact h.trans (Nat.le_succ _)

end

/-- A plane of `n ≥ 1` pairs takes at most `3n + 1` bits (43_codec_a_rle.md R246). -/
theorem encodePlane_length_le (wb : List Bool) {seq : List Pair} (h : 1 ≤ seq.length) :
    (encodePlane wb seq).wb.length ≤ wb.length + 3 * seq.length + 1 := by
  cases seq with
  | nil => simp at h
  | cons v seq =>
    have hbounded := PlaneEnc.bounded_foldl (PlaneEnc.bounded_start wb v seq) seq
    have hflush := PlaneEnc.flush_length_le hbounded
    rw [List.length_cons, Nat.add_comm seq.length 1]
    exact hflush

theorem modeToken_length_le (mode : Nat) : (encode (modeToken mode)).length ≤ 2 := by
  unfold modeToken
  split <;> simp [encode]

/-- A stream of width `w ≥ 1` has at most `6N + 13` bits (43_codec_a_rle.md R246). -/
theorem aEncodeStream_length_le (data : List Byte) {w : Nat} (hw : 1 ≤ w) (swap : Bool) (mode : Nat) :
    (aEncodeStream data w swap mode).length ≤ 6 * Config.planePairs w + 13 := by
  have hpairs : 1 ≤ Config.planePairs w := Nat.mul_pos (by omega) (Nat.mul_pos hw hw)
  have hplane := fun (wb : List Bool) (pl : Plane) =>
    encodePlane_length_le wb (seq := pairsOf pl w) (by rwa [pairsOf_length])
  have hmode := modeToken_length_le mode
  simp only [pairsOf_length] at hplane
  have hheader : (encode (.aHdr w w) ++ encode (.aOrd swap)).length = 9 := by simp [encode]
  have hone := hplane (encode (.aHdr w w) ++ encode (.aOrd swap)) (delta (extract data w swap.toNat))
  refine (hplane _ _).trans ?_
  rw [List.length_append]
  omega

/-- The packed stream of a width up to 15 has at most 5402 bytes (43_codec_a_rle.md R246). -/
theorem pack_aEncodeStream_length_le (data : List Byte) {w : Nat} (hlo : 1 ≤ w) (hhi : w ≤ 15) (swap : Bool)
    (mode : Nat) : (pack (aEncodeStream data w swap mode)).length ≤ 5402 := by
  have hbits := aEncodeStream_length_le data hlo swap mode
  have hsq : w * w ≤ 15 * 15 := Nat.mul_le_mul hhi hhi
  rw [Config.planePairs] at hbits
  rw [pack_length]
  omega

/-! ### A_COMPRESS -/

/-- The width is the first check of A_COMPRESS (40_operations.md R140). -/
theorem checkCompress_width {w len : Nat} (mode : Nat) (h : w = 0 ∨ len ≠ Config.dataLen w) :
    checkCompress w mode len = .error .invalidWidth := by
  rcases h with rfl | hlen
  · rfl
  · simp only [checkCompress, if_pos hlen, ite_self]

section
variable {s : State}

/-- A_COMPRESS on an input that fits, where a check of its own fails (40_operations.md R140). -/
theorem exec_aCompress_error (hfits : s.lInLen.toNat ≤ s.cfg.bufSize) {e : Err}
    (hcheck : checkCompress (paramWidth s.lParam) (paramMode s.lParam) s.lInLen.toNat = .error e) :
    exec .aCompress s = .next (s.raise e) := by
  change Host.Outcome.next (s.withInput _) = _
  rw [State.withInput_of_le hfits]
  simp [hcheck]

/-- A_COMPRESS on an input that passes the checks (40_operations.md R140). -/
theorem exec_aCompress_ok (hfits : s.lInLen.toNat ≤ s.cfg.bufSize)
    (hcheck : checkCompress (paramWidth s.lParam) (paramMode s.lParam) s.lInLen.toNat = .ok ()) :
    exec .aCompress s = .next
      (s.compressA s.inputBytes (paramWidth s.lParam) (paramSwap s.lParam) (paramMode s.lParam)) := by
  change Host.Outcome.next (s.withInput _) = _
  rw [State.withInput_of_le hfits]
  simp [hcheck, State.inputBytes]

end

/-- Settles O34: the checks in order, and a stream that every legal buffer holds. -/
theorem compressReportsTheStream : Obligations.CompressReportsTheStream := by
  unfold Obligations.CompressReportsTheStream
  refine ⟨rfl, fun s hlegal hfits => ⟨fun hwidth => ?width, fun hlo hlen hmode => ?mode,
    fun hlo hlen hmode => ?stream⟩⟩
  case width =>
    exact exec_aCompress_error hfits (checkCompress_width _ hwidth)
  case mode =>
    exact exec_aCompress_mode_three hlegal hlo hlen hmode
  case stream =>
    have hhi := paramWidth_le s.lParam
    have hbytes := pack_aEncodeStream_length_le s.inputBytes hlo hhi (paramSwap s.lParam) (paramMode s.lParam)
    have hcheck := (checkCompress_ok _ _ _).2 ⟨⟨hlo, hhi⟩, hlen, hmode⟩
    have hsize := legal_le_bufSize hlegal
    exact ⟨hbytes, _, exec_aCompress_ok hfits hcheck, State.complete_setWork_spec hlegal _ _ (hbytes.trans (by omega))⟩

/-! ### A_COMPRESS_AUTO -/

/-- An inferred width is at most 15 (40_operations.md R146). -/
theorem inferWidth_le (n : Nat) : inferWidth n ≤ 15 := by
  unfold inferWidth
  cases h : (List.range 15).find? fun k => Config.dataLen (k + 1) = n with
  | none => exact Nat.zero_le 15
  | some k =>
    have hk := List.mem_range.1 (List.mem_of_find?_eq_some h)
    exact hk

/-- The place of a choice in the order of 40_operations.md R145. -/
def choiceRank (c : Bool × Nat) : Nat :=
  3 * c.1.toNat + c.2

/-- The length of the result of a choice. -/
def choiceSize (data : List Byte) (w : Nat) (c : Bool × Nat) : Nat :=
  (pack (aEncodeStream data w c.1 c.2)).length

/-- `b` is the result of a choice among `tried`, none of them has a shorter one, and those with one as short come later. -/
structure FirstShortest (data : List Byte) (w : Nat) (tried : List (Bool × Nat)) (b : AutoBest) : Prop where
  mem : (b.swap, b.mode) ∈ tried
  bytes : b.bytes = pack (aEncodeStream data w b.swap b.mode)
  shortest : ∀ c ∈ tried, choiceSize data w (b.swap, b.mode) ≤ choiceSize data w c
  earliest : ∀ c ∈ tried, choiceSize data w c = choiceSize data w (b.swap, b.mode) →
    choiceRank (b.swap, b.mode) ≤ choiceRank c

section
variable {data : List Byte} {w : Nat} {tried : List (Bool × Nat)} {b : AutoBest} {c : Bool × Nat}

/-- A turn of the loop keeps the first of the shortest, if it tries a choice that comes later than all before
(40_operations.md R145). -/
theorem autoStep_firstShortest (h : FirstShortest data w tried b)
    (hlater : ∀ d ∈ tried, choiceRank d < choiceRank c) :
    ∃ b', autoStep data w (some b) c = some b' ∧ FirstShortest data w (tried ++ [c]) b' := by
  obtain ⟨htried, hbytes, hshortest, hfirst⟩ := h
  have hstep : autoStep data w (some b) c =
      if choiceSize data w c < choiceSize data w (b.swap, b.mode) then
        some ⟨pack (aEncodeStream data w c.1 c.2), c.1, c.2⟩ else some b := by
    simp only [autoStep, hbytes]
    rfl
  rw [hstep]
  split_ifs with hless
  · refine ⟨_, rfl, by simp, rfl, fun d hd => ?_, fun d hd hsize => ?_⟩
    · rcases List.mem_append.1 hd with hd | hd
      · exact hless.le.trans (hshortest d hd)
      · rw [List.mem_singleton.1 hd]
    · rcases List.mem_append.1 hd with hd | hd
      · exact absurd (hshortest d hd) (not_le.2 (hsize ▸ hless))
      · rw [List.mem_singleton.1 hd]
  · refine ⟨b, rfl, List.mem_append_left _ htried, hbytes, fun d hd => ?_, fun d hd hsize => ?_⟩
    · rcases List.mem_append.1 hd with hd | hd
      · exact hshortest d hd
      · rw [List.mem_singleton.1 hd]
        exact not_lt.1 hless
    · rcases List.mem_append.1 hd with hd | hd
      · exact hfirst d hd hsize
      · rw [List.mem_singleton.1 hd]
        exact (hlater _ htried).le

/-- The loop over choices in rising order (40_operations.md R145). -/
theorem foldl_autoStep_firstShortest {cs : List (Bool × Nat)} (h : FirstShortest data w tried b)
    (hsorted : (tried ++ cs).Pairwise fun c d => choiceRank c < choiceRank d) :
    ∃ b', cs.foldl (autoStep data w) (some b) = some b' ∧ FirstShortest data w (tried ++ cs) b' := by
  induction cs generalizing tried b with
  | nil => exact ⟨b, rfl, by simpa using h⟩
  | cons c cs ih =>
    obtain ⟨-, -, hlater⟩ := List.pairwise_append.1 hsorted
    obtain ⟨b₁, hstep, hb₁⟩ := autoStep_firstShortest h fun d hd => hlater d hd c List.mem_cons_self
    rw [List.append_cons] at hsorted ⊢
    rw [List.foldl_cons, hstep]
    exact ih hb₁ hsorted

end

/-- The loop of A_COMPRESS_AUTO leaves the first of the shortest of the six results (40_operations.md R145). -/
theorem autoBest_firstShortest (data : List Byte) (w : Nat) :
    ∃ b, autoBest data w = some b ∧ FirstShortest data w autoChoices b := by
  refine foldl_autoStep_firstShortest (tried := [(false, 0)])
    (b := ⟨pack (aEncodeStream data w false 0), false, 0⟩) ⟨by simp, rfl, ?_, ?_⟩ (by decide)
  · rintro c hc
    rw [List.mem_singleton.1 hc]
  · rintro c hc -
    rw [List.mem_singleton.1 hc]

/-- The six choices are all those whose mode is not 3 (40_operations.md R145). -/
theorem mem_autoChoices {swap : Bool} {mode : Nat} : (swap, mode) ∈ autoChoices ↔ mode ≤ 2 := by
  constructor
  · intro h
    simp only [autoChoices, List.mem_cons, List.not_mem_nil, or_false, Prod.mk.injEq] at h
    omega
  · intro h
    interval_cases mode <;> cases swap <;> decide

/-- The width A_COMPRESS_AUTO takes: the one given, or the inferred one where 0 is given (40_operations.md R145, R146). -/
def takenWidth (width len : Nat) : Nat :=
  if width = 0 then inferWidth len else width

theorem takenWidth_le (p : BitVec 7) (len : Nat) : takenWidth (paramWidth p) len ≤ 15 := by
  unfold takenWidth
  split_ifs
  · exact inferWidth_le len
  · exact paramWidth_le p

/-- No width, or one that does not fit the length, is INVALID_WIDTH (40_operations.md R145). -/
theorem autoWidth_error {width len : Nat}
    (h : takenWidth width len = 0 ∨ len ≠ Config.dataLen (takenWidth width len)) :
    autoWidth width len = .error .invalidWidth :=
  if_pos (h.imp (fun (hzero : takenWidth width len = 0) (hrange : 1 ≤ takenWidth width len ∧ _) => by omega) id)

/-- A width that fits the length is taken (40_operations.md R145). -/
theorem autoWidth_ok {width len : Nat} (hlo : 1 ≤ takenWidth width len) (hhi : takenWidth width len ≤ 15)
    (hlen : len = Config.dataLen (takenWidth width len)) :
    autoWidth width len = .ok (takenWidth width len) :=
  if_neg (not_or.2 ⟨not_not.2 ⟨hlo, hhi⟩, not_not.2 hlen⟩)

section
variable {s : State} {w : Nat}

/-- A_COMPRESS_AUTO on an input that its width does not fit (40_operations.md R145). -/
theorem exec_aCompressAuto_error (hfits : s.lInLen.toNat ≤ s.cfg.bufSize) {e : Err}
    (hwidth : autoWidth (paramWidth s.lParam) s.lInLen.toNat = .error e) :
    exec .aCompressAuto s = .next (s.raise e) := by
  change Host.Outcome.next (s.withInput _) = _
  rw [State.withInput_of_le hfits]
  simp [hwidth]

/-- A_COMPRESS_AUTO on an input that its width fits completes with the best result (40_operations.md R145). -/
theorem exec_aCompressAuto_ok (hfits : s.lInLen.toNat ≤ s.cfg.bufSize) {b : AutoBest}
    (hwidth : autoWidth (paramWidth s.lParam) s.lInLen.toNat = .ok w)
    (hbest : autoBest s.inputBytes w = some b) :
    exec .aCompressAuto s = .next
      ((s.setWork (Work.afterEncode (aEncode s.inputBytes w true 2) (some b))).complete b.bytes
        (infoOf w b.swap b.mode)) := by
  have hlen := s.inputBytes_length
  change Host.Outcome.next (s.withInput _) = _
  rw [State.withInput_of_le hfits]
  unfold State.inputBytes at hbest hlen ⊢
  simp only [hlen, hwidth, hbest]

end

/-- Settles O35: the width that is given or inferred, and the loop over the six choices. -/
theorem autoTakesTheFirstShortest : Obligations.AutoTakesTheFirstShortest := by
  unfold Obligations.AutoTakesTheFirstShortest
  refine ⟨rfl, fun s hlegal hfits => ?_⟩
  -- The width of the statement is the one that is taken.
  change let w := takenWidth (paramWidth s.lParam) s.lInLen.toNat; _
  refine ⟨fun hwidth => ?width, fun hlo hlen => ?best⟩
  case width =>
    exact exec_aCompressAuto_error hfits (autoWidth_error hwidth)
  case best =>
    have hhi := takenWidth_le s.lParam s.lInLen.toNat
    obtain ⟨b, hbest, hmem, hbytes, hshortest, hfirst⟩ :=
      autoBest_firstShortest s.inputBytes (takenWidth (paramWidth s.lParam) s.lInLen.toNat)
    have hlength := pack_aEncodeStream_length_le s.inputBytes hlo hhi b.swap b.mode
    have hsize := legal_le_bufSize hlegal
    have hexec := exec_aCompressAuto_ok hfits (autoWidth_ok hlo hhi hlen) hbest
    rw [hbytes] at hexec
    obtain ⟨hidle, hdone, hreports⟩ := State.complete_setWork_spec hlegal _ _ (hlength.trans (by omega))
    exact ⟨_, b.swap, b.mode, hexec, hidle, hdone, mem_autoChoices.1 hmem, hreports,
      fun swap mode hmode => ⟨hshortest (swap, mode) (mem_autoChoices.2 hmode),
        hfirst (swap, mode) (mem_autoChoices.2 hmode)⟩⟩

end Sys2Proof.Machine
end

section
/-! SUPPORT. B_COMPRESS (40_operations.md R155): the padding of its stream, and what it completes with. -/
namespace Sys2Proof.Machine

/-! ### The stream -/

/-- There are fewer padding bytes than the alignment (45_codec_b_matcher.md R345). -/
theorem padCount_lt {n align : Nat} (h : 0 < align) : padCount n align < align :=
  Nat.mod_lt _ h

/-- The padding makes the length a multiple of the alignment (45_codec_b_matcher.md R345). -/
theorem add_padCount_mod {n align : Nat} (h : 0 < align) : (n + padCount n align) % align = 0 := by
  have hlt := Nat.mod_lt n h
  rw [padCount, Nat.add_mod_mod, ← Nat.mod_add_mod, Nat.add_sub_cancel' hlt.le, Nat.mod_self]

theorem serialize_length_mod (data : List Byte) (cmds : List Cmd) {align : Nat} (h : 0 < align) :
    (serialize data cmds align).length % align = 0 := by
  rw [serialize, List.length_append, List.length_replicate]
  exact add_padCount_mod h

/-- Any input but the empty one is serialized (45_codec_b_matcher.md R350). -/
theorem bCompress_of_ne_nil (P : Params) {data : List Byte} (h : data ≠ []) (align : Nat) :
    bCompress P data align = serialize data (optimize (matchAll P data)) align := by
  simp [bCompress, h]

/-! ### The operation -/

section
variable {s : State}

/-- B_COMPRESS with ALIGN 0 (40_operations.md R155). -/
theorem exec_bCompress_unaligned (hfits : s.lInLen.toNat ≤ s.cfg.bufSize) (halign : s.lAlign = 0) :
    exec .bCompress s = .next (s.raise .invalidAlignment) := by
  change Host.Outcome.next (s.withInput _) = _
  rw [State.withInput_of_le hfits, if_pos halign]

/-- B_COMPRESS with any other ALIGN (40_operations.md R155). -/
theorem exec_bCompress_aligned (hfits : s.lInLen.toNat ≤ s.cfg.bufSize) (halign : s.lAlign ≠ 0) :
    exec .bCompress s = .next
      ((s.setWork (Work.afterMatch (runMatcher s.cfg s.inputBytes) (optimize (matchAll s.cfg s.inputBytes)))).complete
        (bCompress s.cfg s.inputBytes s.lAlign.toNat) 0) := by
  change Host.Outcome.next (s.withInput _) = _
  rw [State.withInput_of_le hfits, if_neg halign]
  rfl

end

/-- Settles O38: the alignment check, the stream with its padding, and the completion with it or with OUTPUT_OVERFLOW. -/
theorem bCompressReportsTheStream : Obligations.BCompressReportsTheStream := by
  unfold Obligations.BCompressReportsTheStream
  refine ⟨rfl, fun s hlegal hfits => ⟨fun halign => ?unaligned, fun hempty => ?empty,
    fun hlen halign => ?stream, fun halign => ?report⟩⟩
  case unaligned =>
    exact exec_bCompress_unaligned hfits halign
  case empty =>
    rw [hempty]
    rfl
  case stream =>
    have hpos : 0 < s.lAlign.toNat := Nat.pos_of_ne_zero fun h => halign (BitVec.eq_of_toNat_eq h)
    have hdata : s.inputBytes ≠ [] := by
      intro h
      have hlength := congrArg List.length h
      rw [s.inputBytes_length] at hlength
      exact hlen (BitVec.eq_of_toNat_eq hlength)
    have hserial := bCompress_of_ne_nil s.cfg hdata s.lAlign.toNat
    change (bCompress s.cfg s.inputBytes s.lAlign.toNat).length % s.lAlign.toNat = 0 ∧ ∃ pad, _ ∧
      bCompress s.cfg s.inputBytes s.lAlign.toNat = _
    rw [hserial]
    exact ⟨serialize_length_mod _ _ hpos, _, padCount_lt hpos, rfl⟩
  case report =>
    refine ⟨_, exec_bCompress_aligned hfits halign, State.complete_phase _ _ _, State.complete_done _ _ _, ?_⟩
    split_ifs with hfit
    · exact State.complete_reports (s := s.setWork (Work.afterMatch _ _)) hlegal 0 hfit
    · exact State.complete_reportsError (s := s.setWork (Work.afterMatch _ _)) 0 (not_le.1 hfit)

end Sys2Proof.Machine
end

section
/-! SUPPORT. The mode field of a Codec A stream (43_codec_a_rle.md R240): a written field reads back, and a reader built of
`ReadBits` alone fails only where the input ends. -/
namespace Sys2Proof.Machine

/-! ### Errors of a reader -/

/-- A sequence of two fallible steps fails as the first step does, or as the second does after it. -/
theorem except_bind_eq_error {α β : Type} {x : Except Err α} {f : α → Except Err β} {e : Err} :
    (x >>= f) = .error e ↔ x = .error e ∨ ∃ a, x = .ok a ∧ f a = .error e := by
  cases x with
  | error e' => simp
  | ok a => simp

/-- TRUNCATED_STREAM is the one error of `ReadBits(N)` (41_bit_cursor.md R171). -/
theorem readBits_error {n : Nat} {bits : List Bool} {e : Err} (h : readBits n bits = .error e) :
    e = .truncatedStream := by
  rcases readBits_cases n bits with ⟨used, rest, -, -, hok⟩ | ⟨-, htruncated⟩
  · cases hok.symm.trans h
  · cases htruncated.symm.trans h
    rfl

/-! ### The mode field -/

/-- `ReadMode()` of what `WriteMode(m)` wrote is `m` (43_codec_a_rle.md R240). -/
theorem readMode_modeToken {mode : Nat} (h : mode ≤ 2) (rest : List Bool) :
    readMode (encode (modeToken mode) ++ rest) = .ok (mode, rest) := by
  interval_cases mode <;> rfl

/-- Either bit of the mode field can be missing, and nothing else is wrong with it (43_codec_a_rle.md R240). -/
theorem readMode_error {bits : List Bool} {e : Err} (h : readMode bits = .error e) : e = .truncatedStream := by
  rw [readMode, except_bind_eq_error] at h
  obtain hfirst | ⟨⟨first, bits'⟩, -, h⟩ := h
  · exact readBits_error hfirst
  · dsimp only at h
    split_ifs at h with hzero
    · cases h
    · obtain hsecond | ⟨_, -, h⟩ := except_bind_eq_error.1 h
      · exact readBits_error hsecond
      · cases h

/-- Settles O4: the three codes by evaluation; the machine's decoder reads the field as `ReadMode()` does. -/
theorem modeFieldReadsBack : Obligations.ModeFieldReadsBack := by
  unfold Obligations.ModeFieldReadsBack
  refine ⟨rfl, rfl, rfl, fun P mode rest hmode => ?readsBack, fun _ _ => readMode_error⟩
  case readsBack =>
    have hread := readMode_modeToken hmode rest
    refine ⟨hread, ?_⟩
    rw [decode_aMode, hread]
    rfl

end Sys2Proof.Machine
end

section
/-! SUPPORT. A Codec B header by the value of its first byte (44_codec_b_commands.md R272), and the stream after END
(R304). -/
namespace Sys2Proof.Machine

/-! ### Fields of a number -/

/-- The bits of a number are those of its high field and then those of its low field. -/
theorem bitsOfNat_add (n m v : Nat) :
    bitsOfNat (n + m) v = bitsOfNat n (v / 2 ^ m) ++ bitsOfNat m (v % 2 ^ m) := by
  refine List.ext_getElem? fun j => ?_
  rcases lt_or_ge j n with hj | hj
  · rw [bitsOfNat_getElem? _ _ (by omega), List.getElem?_append_left (by simpa using hj),
      bitsOfNat_getElem? _ _ hj, Nat.testBit_div_two_pow]
    congr 2
    omega
  rcases lt_or_ge j (n + m) with hjm | hjm
  · rw [bitsOfNat_getElem? _ _ hjm, List.getElem?_append_right (by simpa using hj), bitsOfNat_length,
      bitsOfNat_getElem? _ _ (by omega), Nat.testBit_mod_two_pow,
      decide_eq_true (show m - 1 - (j - n) < m by omega), Bool.true_and]
    congr 2
    omega
  · rw [List.getElem?_eq_none (by simpa using hjm), List.getElem?_eq_none (by simpa using hjm)]

/-- A header byte as 3 and 5 bits (30_encoding.md R101). -/
theorem bitsOfByte_short (b : Byte) :
    bitsOfByte b = bitsOfNat 3 (b.toNat / 32) ++ bitsOfNat 5 (b.toNat % 32) :=
  bitsOfNat_add 3 5 b.toNat

/-- A header byte whose top 3 bits are 7, as 3, 3 and 2 bits (30_encoding.md R102, R105). -/
theorem bitsOfByte_long {b : Byte} (h : 0xE0 ≤ b.toNat) :
    bitsOfByte b = bitsOfNat 3 7 ++ (bitsOfNat 3 (b.toNat / 4 % 8) ++ bitsOfNat 2 (b.toNat % 4)) := by
  have hlow := bitsOfNat_add 3 2 (b.toNat % 32)
  rw [show b.toNat % 32 / 2 ^ 2 = b.toNat / 4 % 8 by omega,
    show b.toNat % 32 % 2 ^ 2 = b.toNat % 4 by omega] at hlow
  rw [bitsOfByte_short, show b.toNat / 32 = 7 by omega]
  exact congrArg _ hlow

/-! ### A header -/

section
variable {b : Byte} (bits : List Bool)

/-- A short header is one byte (44_codec_b_commands.md R272). -/
theorem decodeHeader_short (h : b.toNat < 0xE0) :
    decodeHeader (bitsOfByte b ++ bits) = .ok (shortRow (b.toNat / 32) (b.toNat % 32 + 1), bits) := by
  have hkind : b.toNat / 32 < 7 := by omega
  rw [decodeHeader, bitsOfByte_short, List.append_assoc, readBits_bitsOfNat 3 _ _ (by omega)]
  simp [hkind, readBits_bitsOfNat 5 (b.toNat % 32) bits (by omega)]

/-- A header byte whose top 3 bits are 7, by its other fields (44_codec_b_commands.md R272). -/
theorem decodeHeader_of_escape (h : 0xE0 ≤ b.toNat) :
    decodeHeader (bitsOfByte b ++ bits) =
      if b.toNat / 4 % 8 = 7 then .ok (escapeRow (b.toNat % 4), bits)
      else readBits 8 bits >>= fun x =>
        .ok (longRow (b.toNat / 4 % 8) (b.toNat % 4 * 256 + x.1 + 1), x.2) := by
  rw [decodeHeader, bitsOfByte_long h, List.append_assoc, readBits_bitsOfNat 3 7 _ (by decide), List.append_assoc]
  simp [readBits_bitsOfNat 3 (b.toNat / 4 % 8) _ (by omega), readBits_bitsOfNat 2 (b.toNat % 4) _ (by omega)]

/-- The bytes 0xFC to 0xFF are headers of one byte (44_codec_b_commands.md R272). -/
theorem decodeHeader_escape (h : 0xFC ≤ b.toNat) :
    decodeHeader (bitsOfByte b ++ bits) = .ok (escapeRow (b.toNat % 4), bits) := by
  rw [decodeHeader_of_escape bits (by omega), if_pos (by omega)]

/-- Any other header byte from 0xE0 on needs a second byte (44_codec_b_commands.md R272). -/
theorem decodeHeader_long (hlo : 0xE0 ≤ b.toNat) (hhi : b.toNat < 0xFC) :
    decodeHeader (bitsOfByte b ++ bits) = readBits 8 bits >>= fun x =>
      .ok (longRow (b.toNat / 4 % 8) (b.toNat % 4 * 256 + x.1 + 1), x.2) := by
  rw [decodeHeader_of_escape bits hlo, if_neg (by omega)]

/-- The sentinel is END (44_codec_b_commands.md R304). -/
theorem decodeHeader_stop (h : b.toNat = 0xFF) : decodeHeader (bitsOfByte b ++ bits) = .ok (.stop, bits) := by
  rw [decodeHeader_escape bits (by omega), h]
  rfl

end

/-- The bytes 0xFC to 0xFE are INVALID_COMMAND (44_codec_b_commands.md R272). -/
theorem exec_escapeRow {low : Nat} (h : low < 3) (s : State) :
    exec (escapeRow low) s = .next (s.raise .invalidCommand) := by
  interval_cases low <;> rfl

/-! ### The statements -/

/-- Settles O3: the four ranges of the first byte, each by the lemma about a header byte in it. -/
theorem headerBytesDecode : Obligations.HeaderBytesDecode := by
  unfold Obligations.HeaderBytesDecode
  intro P
  refine ⟨rfl, fun b0 bs => ⟨decodeHeader_stop _, decodeHeader_short _,
    fun hlo hhi => ⟨?truncated, fun b1 => ?long⟩, fun hlo hhi => ?reserved⟩,
    fun s => ⟨exec_escapeRow (low := 0) (by decide) s, exec_escapeRow (low := 1) (by decide) s,
      exec_escapeRow (low := 2) (by decide) s⟩⟩
  case truncated =>
    exact decodeHeader_long [] hlo hhi
  case long =>
    have hsecond : readBits 8 (bitsOfByte b1 ++ bitsOfBytes bs) = .ok (b1.toNat, bitsOfBytes bs) :=
      readBits_bitsOfNat 8 b1.toNat _ b1.isLt
    have hheader := decodeHeader_long (bitsOfBytes (b1 :: bs)) hlo hhi
    rw [bitsOfBytes_cons, hsecond] at hheader
    exact hheader
  case reserved =>
    exact ⟨_, decodeHeader_escape _ hlo, exec_escapeRow (by omega)⟩

/-- Settles O60: END ends the decoding at once, and what has been decoded before it looks at no byte after it. -/
theorem bytesAfterTheStreamAreIgnored : Obligations.BytesAfterTheStreamAreIgnored := by
  unfold Obligations.BytesAfterTheStreamAreIgnored
  refine ⟨fun P fuel out bits => ?sentinel, fun P input more out h => ?append⟩
  case sentinel =>
    rw [bDecodeFrom, decodeHeader_stop bits rfl]
    rfl
  case append =>
    rw [bDecode, bitsOfBytes_append]
    exact bDecodeFrom_append _ (by simp) h

end Sys2Proof.Machine
end

section
/-! SUPPORT. `rev8` bit by bit and nibble by nibble (44_codec_b_commands.md R274). -/
namespace Sys2Proof.Machine

theorem natOfBits_concat (bits : List Bool) (b : Bool) :
    natOfBits (bits ++ [b]) = 2 * natOfBits bits + b.toNat := by
  simp [natOfBits]

/-- Bit `i` of the number that a bit sequence spells is the bit `i` places before its last one. -/
theorem testBit_natOfBits (bits : List Bool) (i : Nat) :
    (natOfBits bits).testBit i = bits.reverse.getD i false := by
  induction bits using List.reverseRecOn generalizing i with
  | nil => simp [natOfBits]
  | append_singleton bits b ih =>
    rw [natOfBits_concat, List.reverse_concat]
    cases i with
    | zero => cases b <;> simp [Nat.testBit_zero]
    | succ i =>
      rw [List.getD_cons_succ, ← ih, Nat.testBit_succ]
      congr 1
      cases b <;> simp; omega

/-- `rev8(b)[i] = b[7 − i]` (44_codec_b_commands.md R274). -/
theorem rev8_getLsbD (b : Byte) {i : Nat} (h : i < 8) : (rev8 b).getLsbD i = b.getLsbD (7 - i) := by
  rw [rev8, BitVec.getLsbD_ofNat, decide_eq_true h, Bool.true_and, testBit_natOfBits, List.reverse_reverse,
    List.getD_eq_getElem?_getD, bitsOfByte, bitsOfNat_getElem? 8 _ h]
  rfl

@[simp] theorem rev8_rev8 (b : Byte) : rev8 (rev8 b) = b := by
  refine BitVec.eq_of_getLsbD_eq fun i hi => ?_
  rw [rev8_getLsbD _ hi, rev8_getLsbD _ (by omega), show 7 - (7 - i) = i by omega]

/-- The table reverses the four bits of a nibble (44_codec_b_commands.md R274). -/
theorem rev4Table_getLsbD : ∀ n < 16, ∀ i < 4, (rev4Table.getD n 0).getLsbD i = n.testBit (3 - i) := by
  decide

/-- A byte is reversed by reversing its nibbles and exchanging them (44_codec_b_commands.md R274). -/
theorem rev8_eq_append (b : Byte) :
    rev8 b = rev4Table.getD (b.toNat % 16) 0 ++ rev4Table.getD (b.toNat / 16) 0 := by
  refine BitVec.eq_of_getLsbD_eq fun i hi => ?_
  rw [rev8_getLsbD b hi, BitVec.getLsbD_append]
  split_ifs with hlow
  · rw [rev4Table_getLsbD _ (by omega) i hlow, show b.toNat / 16 = b.toNat / 2 ^ 4 from rfl,
      Nat.testBit_div_two_pow, BitVec.getLsbD]
    congr 1
    omega
  · rw [rev4Table_getLsbD _ (by omega) (i - 4) (by omega), show b.toNat % 16 = b.toNat % 2 ^ 4 from rfl,
      Nat.testBit_mod_two_pow, decide_eq_true (show 3 - (i - 4) < 4 by omega), Bool.true_and, BitVec.getLsbD]
    congr 1
    omega

/-- Settles O5: the bit formula, the formula twice, and the two nibbles side by side. -/
theorem byteReversalMatchesItsTable : Obligations.ByteReversalMatchesItsTable := by
  unfold Obligations.ByteReversalMatchesItsTable
  refine fun b => ⟨fun i hi => rev8_getLsbD b hi, rev8_rev8 b, ?table⟩
  case table =>
    rw [rev8_eq_append, BitVec.toNat_append, ← Nat.shiftLeft_add_eq_or_of_lt (BitVec.isLt _), Nat.shiftLeft_eq,
      Nat.mul_comm]

end Sys2Proof.Machine
end

section
/-! SUPPORT. The checks of a Codec B command that fail (44_codec_b_commands.md R301 to R303): the offset check, and the
capacity check once the payload is there and the offset is in range. -/
namespace Sys2Proof.Machine

/-! ### The offset check -/

/-- An offset whose source fails the check is INVALID_OFFSET (44_codec_b_commands.md R301). -/
theorem exec_offset_outside {s : State} {i : Instr} (hspace : i.space = .bOffset)
    (hbad : ¬ (0 ≤ offsetSource i s.work.out.length ∧ offsetSource i s.work.out.length < s.work.out.length ∧
      (s.work.copy = .reverse → (s.work.len : Int) - 1 ≤ offsetSource i s.work.out.length))) :
    exec i s = .next (s.raise .invalidOffset) := by
  rw [← offsetOk_iff] at hbad
  rw [exec_offset hspace]
  rcases s.runCopy_cases (offsetSource i s.work.out.length) with ⟨-, h⟩ | ⟨hok, -⟩ | ⟨hok, -⟩
  · rw [h]
  · exact absurd hok hbad
  · exact absurd hok hbad

/-- Settles O23: the check by its formula; every source that is named fails a part of it. -/
theorem offsetOutsideOutputRaises : Obligations.OffsetOutsideOutputRaises := by
  unfold Obligations.OffsetOutsideOutputRaises
  refine ⟨fun kind src len n => ?formula, fun s => ⟨fun d hd => exec_offset_outside rfl ?distance,
    fun src hsrc => exec_offset_outside rfl ?position, fun hreverse =>
      ⟨fun src hsrc => exec_offset_outside rfl ?reversePosition,
        fun d hle hd => exec_offset_outside rfl ?reverseDistance⟩⟩⟩
  case formula =>
    rw [offsetOk_iff, not_and, not_lt, sub_nonneg, and_assoc]
  all_goals
    simp only [offsetSource]
    rintro ⟨hlo, hhi, hroom⟩
  case distance | position => omega
  case reversePosition | reverseDistance =>
    have hroom := hroom hreverse
    omega

/-! ### The capacity check -/

/-- The operation is over and the host sees the error (40_operations.md R134). -/
def State.FailedWith (t : State) (e : Err) : Prop :=
  t.phase = .idle ∧ t.done = true ∧ t.ReportsError e

theorem State.raise_failedWith (s : State) (e : Err) : (s.raise e).FailedWith e :=
  ⟨rfl, rfl, s.raise_reportsError e⟩

section
variable {s : State} {len : Nat}

/-- An append that does not fit (44_codec_b_commands.md R302). -/
theorem State.append_overflows {bs : List Byte} (h : s.cfg.bufSize < s.work.out.length + bs.length) :
    (s.append bs).FailedWith .outputOverflow := by
  rcases s.append_cases bs with ⟨hfits, -⟩ | ⟨-, hraise⟩
  · omega
  · rw [hraise]
    exact s.raise_failedWith _

/-- A command whose payload is there and whose bytes do not fit (44_codec_b_commands.md R303 steps 3 and 5). -/
theorem State.withPayload_overflows {n : Nat} {f : List Byte → List Byte} (hpayload : s.work.rp + n ≤ s.lInLen.toNat)
    (hlen : ∀ bs, bs.length = n → (f bs).length = len) (h : s.cfg.bufSize < s.work.out.length + len) :
    (s.withPayload n f).FailedWith .outputOverflow := by
  rcases s.withPayload_cases n f with ⟨-, happend⟩ | ⟨⟨hmissing, -⟩, -⟩
  · rw [happend]
    exact State.append_overflows (by rwa [hlen _ (by simp)])
  · omega

/-- An offset whose source is in range, with a copy that does not fit (44_codec_b_commands.md R303 steps 4 and 5). -/
theorem exec_offset_overflows {i : Instr} (hspace : i.space = .bOffset)
    (hok : offsetOk s.work.copy (offsetSource i s.work.out.length) s.work.len s.work.out.length = true)
    (h : s.cfg.bufSize < s.work.out.length + s.work.len) :
    ∃ t, exec i s = .next t ∧ t.FailedWith .outputOverflow := by
  refine ⟨_, exec_offset hspace s, ?_⟩
  rcases s.runCopy_cases (offsetSource i s.work.out.length) with ⟨hbad, -⟩ | ⟨-, -, hraise⟩ | ⟨-, hfits, -⟩
  · exact absurd (hok.symm.trans hbad) (by decide)
  · rw [hraise]
    exact s.raise_failedWith _
  · omega

end

/-- Settles O24: every command ends in an append or in a copy, and both check the capacity. -/
theorem outputPastBufferRaises : Obligations.OutputPastBufferRaises := by
  unfold Obligations.OutputPastBufferRaises
  intro s len src hover
  refine ⟨?zero, fun hpayload => ?lit, fun hpayload => ?iter, fun hpayload => ?alt,
    fun hlen hsrc hreverse => ?copy⟩
  case zero =>
    have h : (s.runZero len).FailedWith .outputOverflow := State.append_overflows (by simpa using hover)
    exact ⟨⟨_, rfl, h⟩, _, rfl, h⟩
  case lit =>
    have h : (s.runLit len).FailedWith .outputOverflow :=
      State.withPayload_overflows hpayload (fun _ hbs => hbs) hover
    exact ⟨⟨_, rfl, h⟩, _, rfl, h⟩
  case iter =>
    have h : (s.runIter len).FailedWith .outputOverflow :=
      State.withPayload_overflows hpayload (fun _ _ => List.length_replicate) hover
    exact ⟨⟨_, rfl, h⟩, _, rfl, h⟩
  case alt =>
    have h : (s.runAlt len).FailedWith .outputOverflow :=
      State.withPayload_overflows hpayload (fun _ _ => by simp [altBytes]) hover
    exact ⟨⟨_, rfl, h⟩, _, rfl, h⟩
  case copy =>
    subst hlen
    have hok : offsetOk s.work.copy (src : Int) s.work.len s.work.out.length = true := by
      rw [offsetOk_iff]
      refine ⟨by omega, by omega, fun hkind => ?_⟩
      have hroom := hreverse hkind
      omega
    have hsource : offsetSource (.offRel (s.work.out.length - src)) s.work.out.length = (src : Int) := by
      simp only [offsetSource]
      omega
    exact ⟨exec_offset_overflows rfl hok hover, exec_offset_overflows rfl (hsource ▸ hok) hover⟩

end Sys2Proof.Machine
end

section
/-! SUPPORT. What the words of the host registers are in a quiet block, and so after reset (10_state.md R22, R23, R41, R43,
70_reset_and_hazards.md R402). -/
namespace Sys2Proof.Machine

section
variable {s : State}

/-- CTRL reads 0 with the interrupt disabled (10_state.md R22). -/
theorem State.ctrlWord_eq_zero (henable : s.irqEn = false) : s.ctrlWord = 0 := by
  rw [State.ctrlWord, henable]
  rfl

/-- STATUS reads 0 in IDLE with no flag up and no error code (10_state.md R23). -/
theorem State.statusWord_eq_zero (hidle : s.phase = .idle) (hflags : s.done = false ∧ s.err = false ∧ s.proto = false)
    (hcode : s.errCode = 0 ∧ s.errClass = 0) : s.statusWord = 0 := by
  obtain ⟨hdone, herr, hproto⟩ := hflags
  obtain ⟨herrCode, herrClass⟩ := hcode
  rw [State.statusWord, State.busy, hidle, hdone, herr, hproto, herrCode, herrClass]
  rfl

/-- `irq` is down with the interrupt disabled (10_state.md R41). -/
theorem State.irq_eq_false (henable : s.irqEn = false) : s.irq = false := by
  rw [State.irq, henable, Bool.and_false]

end

/-- The registers after reset: ALIGN is 1 and every other one is 0 (10_state.md R43). -/
theorem State.readReg_reset (r : Reg) : State.reset.readReg r = if r = .align then 1 else 0 := by
  cases r with
  | ctrl => exact State.ctrlWord_eq_zero rfl
  | status => exact State.statusWord_eq_zero rfl ⟨rfl, rfl, rfl⟩ ⟨rfl, rfl⟩
  | op | param | align | inLen | outLen | info => rfl

/-- Settles O7: the registers one by one; the engine is IDLE, and with IRQ_EN 0 `irq` is down. -/
theorem resetLeavesTheStatedValues : Obligations.ResetLeavesTheStatedValues := by
  unfold Obligations.ResetLeavesTheStatedValues
  simp only [State.readReg_reset]
  exact ⟨rfl, rfl, rfl, rfl, rfl, rfl, rfl, rfl, rfl, State.irq_eq_false rfl⟩

end Sys2Proof.Machine
end

section
/-! SUPPORT. The decoder and the encoder of the code spaces undo each other (30_encoding.md R90 to R106): a field read is the
field written, and each row is put together from its fields. -/
namespace Sys2Proof.Machine

/-! ### Fields -/

/-- A bit sequence is written by the number it spells (00_scope.md R12). -/
theorem bitsOfNat_natOfBits (bits : List Bool) : bitsOfNat bits.length (natOfBits bits) = bits := by
  refine List.ext_getElem? fun j => ?_
  rcases lt_or_ge j bits.length with hj | hj
  · rw [bitsOfNat_getElem? _ _ hj, testBit_natOfBits, List.getD_eq_getElem?_getD,
      List.getElem?_reverse (by omega), show bits.length - 1 - (bits.length - 1 - j) = j by omega]
    simp [hj]
  · rw [List.getElem?_eq_none (by simpa using hj), List.getElem?_eq_none hj]

/-- `ReadBits(N)` succeeds exactly where the bits begin with those of an N-bit number (41_bit_cursor.md R172, R175). -/
theorem readBits_eq_ok {n v : Nat} {bits rest : List Bool} :
    readBits n bits = .ok (v, rest) ↔ v < 2 ^ n ∧ bits = bitsOfNat n v ++ rest := by
  constructor
  · intro h
    rcases readBits_cases n bits with ⟨used, rest', rfl, rfl, hok⟩ | ⟨-, herr⟩
    · rw [hok, Except.ok.injEq, Prod.mk.injEq] at h
      obtain ⟨rfl, rfl⟩ := h
      exact ⟨natOfBits_lt used, by rw [bitsOfNat_natOfBits]⟩
    · cases herr.symm.trans h
  · rintro ⟨hv, rfl⟩
    exact readBits_bitsOfNat n v rest hv

/-- `ReadBits(1)` of a bit. -/
@[simp] theorem readBits_one_cons (b : Bool) (rest : List Bool) : readBits 1 (b :: rest) = .ok (b.toNat, rest) := by
  cases b <;> rfl

/-! ### The rows put together from their fields -/

/-- The row of a code of three bits is written as the code (30_encoding.md R90). -/
theorem encode_decodeOp {w : Nat} (h : w < 2 ^ 3) : encode (decodeOp w) = bitsOfNat 3 w := by
  interval_cases w <;> rfl

theorem decodeOp_space (w : Nat) : (decodeOp w).space = .op := by
  unfold decodeOp
  split <;> rfl

theorem decodeOp_wf (P : Params) (w : Nat) : (decodeOp w).wf P := by
  unfold decodeOp
  split <;> trivial

section
variable {P : Params} {kind len : Nat} (hkind : kind < 7)
include hkind

theorem encode_shortRow : encode (shortRow kind len) = encodeShort kind len := by
  interval_cases kind <;> rfl

theorem encode_longRow : encode (longRow kind len) = encodeLong kind len := by
  interval_cases kind <;> rfl

theorem shortRow_wf (hlen : shortLenOk len) : (shortRow kind len).wf P := by
  interval_cases kind <;> exact hlen

theorem longRow_wf (hlen : longLenOk len) : (longRow kind len).wf P := by
  interval_cases kind <;> exact hlen

/-- A short header reads back (30_encoding.md R101). -/
theorem decodeHeader_encodeShort (hlen : shortLenOk len) (rest : List Bool) :
    decodeHeader (encodeShort kind len ++ rest) = .ok (shortRow kind len, rest) := by
  obtain ⟨hlo, hhi⟩ := hlen
  have hmax : Config.shortLen = 32 := rfl
  rw [decodeHeader, encodeShort, List.append_assoc, readBits_bitsOfNat 3 kind _ (by omega)]
  simp [hkind, readBits_bitsOfNat 5 (len - 1) _ (by omega), show len - 1 + 1 = len by omega]

/-- A long header reads back (30_encoding.md R102). -/
theorem decodeHeader_encodeLong (hlen : longLenOk len) (rest : List Bool) :
    decodeHeader (encodeLong kind len ++ rest) = .ok (longRow kind len, rest) := by
  obtain ⟨hlo, hhi⟩ := hlen
  have hmax : Config.maxLen = 1024 := rfl
  have hvalue : (len - 1) / 256 * 256 + (len - 1) % 256 + 1 = len := by omega
  simp only [decodeHeader, encodeLong, List.append_assoc, readBits_bitsOfNat 3 7 _ (by decide),
    readBits_bitsOfNat 3 kind _ (show kind < 2 ^ 3 by omega),
    readBits_bitsOfNat 2 ((len - 1) / 256) _ (by omega),
    readBits_bitsOfNat 8 ((len - 1) % 256) _ (by omega), except_ok_bind, if_neg (show kind ≠ 7 by omega),
    if_neg (lt_irrefl 7), hvalue]
  rfl

end

theorem encode_escapeRow {low : Nat} (h : low < 2 ^ 2) :
    encode (escapeRow low) = bitsOfNat 3 7 ++ (bitsOfNat 3 7 ++ bitsOfNat 2 low) := by
  interval_cases low <;> rfl

theorem escapeRow_wf (P : Params) (low : Nat) : (escapeRow low).wf P := by
  unfold escapeRow
  split <;> trivial

/-- The bytes 0xFC to 0xFF read back (30_encoding.md R105). -/
theorem decodeHeader_encode_escapeRow {low : Nat} (h : low < 2 ^ 2) (rest : List Bool) :
    decodeHeader (encode (escapeRow low) ++ rest) = .ok (escapeRow low, rest) := by
  rw [encode_escapeRow h, decodeHeader]
  simp only [List.append_assoc, readBits_bitsOfNat 3 7 _ (by decide), readBits_bitsOfNat 2 low _ h, except_ok_bind,
    if_neg (lt_irrefl 7), if_true]
  rfl

/-- The unary part of an RLE packet reads back (43_codec_a_rle.md R222). -/
theorem readUnary_replicate {left n : Nat} (h : n ≤ left) (w : Nat) (rest : List Bool) :
    readUnary left w (List.replicate n true ++ false :: rest) = .ok (w + n, rest) := by
  induction n generalizing left w with
  | zero => cases left <;> rfl
  | succ n ih =>
    obtain ⟨left, rfl⟩ := Nat.exists_eq_add_of_le' (Nat.le_of_add_left_le h)
    rw [List.replicate_succ, List.cons_append, readUnary, ih (by omega), Nat.add_right_comm, Nat.add_assoc]

/-- What the unary reader takes is as many one bits as it counts, at most `left`, and a zero bit (43_codec_a_rle.md R222). -/
theorem readUnary_eq_ok {left w v : Nat} {bits rest : List Bool} (h : readUnary left w bits = .ok (v, rest)) :
    ∃ n, n ≤ left ∧ v = w + n ∧ bits = List.replicate n true ++ false :: rest := by
  induction left generalizing w bits with
  | zero =>
    rcases bits with _ | ⟨_ | _, bits⟩ <;> cases h
    exact ⟨0, le_rfl, rfl, rfl⟩
  | succ left ih =>
    rcases bits with _ | ⟨_ | _, bits⟩
    · cases h
    · cases h
      exact ⟨0, Nat.zero_le _, rfl, rfl⟩
    · obtain ⟨n, hn, rfl, rfl⟩ := ih h
      exact ⟨n + 1, by omega, by omega, rfl⟩

/-! ### The encoder, then the decoder -/

/-- An RLE packet reads back: the fields as they were written (30_encoding.md R96). -/
theorem readPacket_encode {P : Params} {w v : Nat} (hw : w ≤ P.rlClassMax) (hv : v < 2 ^ (w + 1)) (rest : List Bool) :
    readPacket P (encode (.aRun w v) ++ rest) = .ok ((w, v), rest) := by
  rw [readPacket, encode, List.append_assoc, List.cons_append, readUnary_replicate hw]
  simp [readBits_bitsOfNat (w + 1) v rest hv]

/-- A group of a data packet reads back (30_encoding.md R95). -/
theorem decode_encode_aP (P : Params) {pair : Pair} (h : pair ≠ 0) (rest : List Bool) :
    decode P .aData (encode (.aP pair) ++ rest) = .ok (.aP pair, rest) := by
  have hne : pair.toNat ≠ 0 := fun hzero => h (BitVec.eq_of_toNat_eq hzero)
  rw [decode_aData, encode, readBits_bitsOfNat 2 _ _ pair.isLt]
  simp [dataRow, hne]

/-- A copy offset reads back, in both forms (30_encoding.md R104). -/
theorem decodeOffset_encode_offRel {d : Nat} (h : d ≤ Config.relMax) (rest : List Bool) :
    decodeOffset (encode (.offRel d) ++ rest) = .ok (.offRel d, rest) := by
  have hmax : Config.relMax = 127 := rfl
  simp [decodeOffset, encode, readBits_bitsOfNat 7 d rest (by omega)]

theorem decodeOffset_encode_offAbs {src : Nat} (h : src ≤ Config.absMax) (rest : List Bool) :
    decodeOffset (encode (.offAbs src) ++ rest) = .ok (.offAbs src, rest) := by
  have hmax : Config.absMax = 0x7FFF := rfl
  have hvalue : src / 256 * 256 + src % 256 = src := by omega
  simp [decodeOffset, encode, readBits_bitsOfNat 7 (src / 256) _ (by omega),
    readBits_bitsOfNat 8 (src % 256) rest (by omega), hvalue]

/-- An encoded well-formed row decodes to the row, and what follows it is left; padding takes what follows too
(30_encoding.md R90 to R105). -/
theorem decode_encode {P : Params} {i : Instr} {rest : List Bool} (hwf : i.wf P) (hpad : i.space = .aPad → rest = []) :
    decode P i.space (encode i ++ rest) = .ok (i, rest) := by
  cases i with
  | aCompress | aCompressAuto | aDecompress | bCompress | bDecompress | opReserved0 | opReserved6 | opReserved7 => rfl
  | lit n => exact decodeHeader_encodeShort (kind := 0) (by decide) hwf rest
  | iter n => exact decodeHeader_encodeShort (kind := 1) (by decide) hwf rest
  | alt n => exact decodeHeader_encodeShort (kind := 2) (by decide) hwf rest
  | zero n => exact decodeHeader_encodeShort (kind := 3) (by decide) hwf rest
  | rep n => exact decodeHeader_encodeShort (kind := 4) (by decide) hwf rest
  | flip n => exact decodeHeader_encodeShort (kind := 5) (by decide) hwf rest
  | reverse n => exact decodeHeader_encodeShort (kind := 6) (by decide) hwf rest
  | litLong n => exact decodeHeader_encodeLong (kind := 0) (by decide) hwf rest
  | iterLong n => exact decodeHeader_encodeLong (kind := 1) (by decide) hwf rest
  | altLong n => exact decodeHeader_encodeLong (kind := 2) (by decide) hwf rest
  | zeroLong n => exact decodeHeader_encodeLong (kind := 3) (by decide) hwf rest
  | repLong n => exact decodeHeader_encodeLong (kind := 4) (by decide) hwf rest
  | flipLong n => exact decodeHeader_encodeLong (kind := 5) (by decide) hwf rest
  | reverseLong n => exact decodeHeader_encodeLong (kind := 6) (by decide) hwf rest
  | longReservedFC => exact decodeHeader_encode_escapeRow (low := 0) (by decide) rest
  | longReservedFD => exact decodeHeader_encode_escapeRow (low := 1) (by decide) rest
  | longReservedFE => exact decodeHeader_encode_escapeRow (low := 2) (by decide) rest
  | stop => exact decodeHeader_encode_escapeRow (low := 3) (by decide) rest
  | offRel d => exact decodeOffset_encode_offRel hwf rest
  | offAbs src => exact decodeOffset_encode_offAbs hwf rest
  | aHdr w h =>
    obtain ⟨hw, hh⟩ := hwf
    simp [Instr.space, decode, decodeAHdr, encode, readBits_bitsOfNat 4 w _ (by omega),
      readBits_bitsOfNat 4 h rest (by omega)]
  | aOrd order => cases order <;> rfl
  | aS0 | aS1 | aT | aM0 | aM1 | aM2 => rfl
  | aP pair => exact decode_encode_aP P hwf rest
  | aRun w v =>
    obtain ⟨hw, hv⟩ := hwf
    rw [Instr.space, decode_aRle, readPacket_encode hw hv]
    rfl
  | aPad n =>
    rw [hpad rfl]
    simp [Instr.space, decode, encode]

/-- Settles O1: each row by the lemma about the fields it is written in. -/
theorem decodeUndoesEncode : Obligations.DecodeUndoesEncode := by
  unfold Obligations.DecodeUndoesEncode
  exact fun P i rest hwf hpad => decode_encode hwf hpad

/-! ### The decoder, then the encoder -/

/-- The bits are those of a well-formed row of the space and then `rest`. -/
def Spells (P : Params) (sp : Space) (bits : List Bool) (i : Instr) (rest : List Bool) : Prop :=
  i.space = sp ∧ i.wf P ∧ bits = encode i ++ rest

section
variable {P : Params} {bits rest : List Bool} {i : Instr}

/-- What follows `ReadBits(N)` succeeds on an N-bit number and the bits after it (41_bit_cursor.md R172). -/
theorem readBits_bind_eq_ok {α : Type} {n : Nat} {g : Nat × List Bool → Except Err α} {a : α} :
    (readBits n bits >>= g) = .ok a ↔ ∃ v rest, v < 2 ^ n ∧ bits = bitsOfNat n v ++ rest ∧ g (v, rest) = .ok a := by
  simp only [except_bind_eq_ok, Prod.exists, readBits_eq_ok, and_assoc]

/-- What a decoder returns. -/
theorem pure_eq_ok {j : Instr} {left : List Bool} :
    (pure (j, left) : Except Err (Instr × List Bool)) = .ok (i, rest) ↔ j = i ∧ left = rest := by
  simp

/-- A header that decodes (30_encoding.md R100 to R102, R105). -/
theorem spells_of_decodeHeader (h : decodeHeader bits = .ok (i, rest)) : Spells P .bHeader bits i rest := by
  simp only [decodeHeader, readBits_bind_eq_ok] at h
  obtain ⟨kind, bits, hkind, rfl, h⟩ := h
  split_ifs at h with hshort <;> simp only [readBits_bind_eq_ok, pure_eq_ok] at h
  · obtain ⟨low, bits, hlow, rfl, rfl, rfl⟩ := h
    refine ⟨shortRow_space _ _, shortRow_wf hshort ⟨by omega, Nat.succ_le_of_lt hlow⟩, ?_⟩
    rw [encode_shortRow hshort, encodeShort, List.append_assoc, Nat.add_sub_cancel]
  · obtain ⟨long, bits, hlong, rfl, low, bits, hlow, rfl, h⟩ := h
    obtain rfl : kind = 7 := by omega
    split_ifs at h with hescape <;> simp only [readBits_bind_eq_ok, pure_eq_ok] at h
    · obtain ⟨rfl, rfl⟩ := h
      refine ⟨escapeRow_space _, escapeRow_wf P _, ?_⟩
      rw [encode_escapeRow hlow, hescape, List.append_assoc, List.append_assoc]
    · obtain ⟨second, bits, hsecond, rfl, rfl, rfl⟩ := h
      have hlen : longLenOk (low * 256 + second + 1) := ⟨by omega, show _ ≤ 1024 by omega⟩
      refine ⟨longRow_space _ _, longRow_wf (by omega) hlen, ?_⟩
      rw [encode_longRow (by omega), encodeLong, Nat.add_sub_cancel,
        show (low * 256 + second) / 256 = low by omega, show (low * 256 + second) % 256 = second by omega]
      simp only [List.append_assoc]

/-- A copy offset that decodes (30_encoding.md R104). -/
theorem spells_of_decodeOffset (h : decodeOffset bits = .ok (i, rest)) : Spells P .bOffset bits i rest := by
  simp only [decodeOffset, readBits_bind_eq_ok] at h
  obtain ⟨form, bits, hform, rfl, low, bits, hlow, rfl, h⟩ := h
  split_ifs at h with hrel <;> simp only [readBits_bind_eq_ok, pure_eq_ok] at h
  · obtain ⟨rfl, rfl⟩ := h
    exact ⟨rfl, Nat.le_of_lt_succ hlow, by rw [hrel]; rfl⟩
  · obtain ⟨second, bits, hsecond, rfl, rfl, rfl⟩ := h
    obtain rfl : form = 0 := by omega
    refine ⟨rfl, show _ ≤ 0x7FFF by omega, ?_⟩
    rw [encode, show (low * 256 + second) / 256 = low by omega, show (low * 256 + second) % 256 = second by omega,
      List.cons_append, List.append_assoc]
    rfl

/-- A group of a data packet that decodes (30_encoding.md R95). -/
theorem spells_of_decodeData (h : decodeData bits = .ok (i, rest)) : Spells P .aData bits i rest := by
  simp only [decodeData, readBits_bind_eq_ok, pure_eq_ok] at h
  obtain ⟨v, bits, hv, rfl, rfl, rfl⟩ := h
  by_cases hzero : v = 0
  · subst hzero
    exact ⟨rfl, trivial, rfl⟩
  · have hpair : (BitVec.ofNat 2 v).toNat = v := by simpa using hv
    rw [if_neg hzero]
    exact ⟨rfl, fun h => hzero (by rw [← hpair, h]; rfl), by rw [encode, hpair]⟩

/-- An RLE packet that decodes (30_encoding.md R96). -/
theorem spells_of_decodeRun (h : decodeRun P bits = .ok (i, rest)) : Spells P .aRle bits i rest := by
  simp only [decodeRun, except_bind_eq_ok (x := readUnary _ _ _), Prod.exists, readBits_bind_eq_ok, pure_eq_ok] at h
  obtain ⟨w, bits', hunary, v, bits, hv, rfl, rfl, rfl⟩ := h
  obtain ⟨n, hn, hw, rfl⟩ := readUnary_eq_ok hunary
  obtain rfl : w = n := by omega
  exact ⟨rfl, ⟨hn, hv⟩, by simp [encode]⟩

/-- A mode field that decodes (30_encoding.md R93). -/
theorem spells_of_decodeMode (h : decodeMode bits = .ok (i, rest)) : Spells P .aMode bits i rest := by
  simp only [decodeMode, readBits_bind_eq_ok] at h
  obtain ⟨first, bits, hfirst, rfl, h⟩ := h
  split_ifs at h with hzero <;> simp only [readBits_bind_eq_ok, pure_eq_ok] at h
  · obtain ⟨rfl, rfl⟩ := h
    exact ⟨rfl, trivial, by rw [hzero]; rfl⟩
  · obtain ⟨second, bits, hsecond, rfl, rfl, rfl⟩ := h
    obtain rfl : first = 1 := by omega
    interval_cases second <;> exact ⟨rfl, trivial, rfl⟩

/-- A Codec A header that decodes (30_encoding.md R92). -/
theorem spells_of_decodeAHdr (h : decodeAHdr bits = .ok (i, rest)) : Spells P .aHdr bits i rest := by
  simp only [decodeAHdr, readBits_bind_eq_ok, pure_eq_ok] at h
  obtain ⟨width, bits, hwidth, rfl, height, bits, hheight, rfl, rfl, rfl⟩ := h
  exact ⟨rfl, ⟨Nat.le_of_lt_succ hwidth, Nat.le_of_lt_succ hheight⟩, by simp [encode]⟩

/-- What decodes in a space other than the padding's is an encoded well-formed row of the space (30_encoding.md R90 to
R106). -/
theorem spells_of_decode {sp : Space} (hsp : sp ≠ .aPad) (h : decode P sp bits = .ok (i, rest)) :
    Spells P sp bits i rest := by
  cases sp with
  | op =>
    simp only [decode, readBits_bind_eq_ok, pure_eq_ok] at h
    obtain ⟨w, bits, hw, rfl, rfl, rfl⟩ := h
    exact ⟨decodeOp_space w, decodeOp_wf P w, by rw [encode_decodeOp hw]⟩
  | bHeader => exact spells_of_decodeHeader h
  | bOffset => exact spells_of_decodeOffset h
  | aHdr => exact spells_of_decodeAHdr h
  | aOrd | aStart =>
    simp only [decode, readBits_bind_eq_ok, pure_eq_ok] at h
    obtain ⟨v, bits, hv, rfl, rfl, rfl⟩ := h
    interval_cases v <;> exact ⟨rfl, trivial, rfl⟩
  | aData => exact spells_of_decodeData h
  | aRle => exact spells_of_decodeRun h
  | aMode => exact spells_of_decodeMode h
  | aPad => exact absurd rfl hsp

end

/-- Settles O2: each space by the fields that its rows are read in. -/
theorem encodeUndoesDecode : Obligations.EncodeUndoesDecode := by
  unfold Obligations.EncodeUndoesDecode
  exact fun P sp bits i rest hsp h => spells_of_decode hsp h

/-! ### Words written out -/

/-- Settles O6: the words are the encodings of the rows, which read back. -/
theorem writtenWordsDecode : Obligations.WrittenWordsDecode := by
  unfold Obligations.WrittenWordsDecode
  refine ⟨?zeroLong, ?rep, ?offRel, ?offAbs, ?run, ?mode⟩
  case zeroLong => exact decode_encode (i := .zeroLong 100) (rest := []) (by decide) nofun
  case rep => exact decode_encode (i := .rep 5) (rest := []) (by decide) nofun
  case offRel => exact decode_encode (i := .offRel 3) (rest := []) (by decide) nofun
  case offAbs => exact decode_encode (i := .offAbs 5) (rest := []) (by decide) nofun
  case run => exact decode_encode (i := .aRun 3 10) (rest := []) (by decide) nofun
  case mode => exact decode_encode (i := .aM2) (rest := []) trivial nofun

end Sys2Proof.Machine
end

section
/-! SUPPORT. The plane coder and its decoder (43_codec_a_rle.md R220 to R238): what the encoder has still to write after some
pairs, and that the decoder reads it as those pairs. -/
namespace Sys2Proof.Machine

/-! ### The run-length code -/

/-- `RunCode(n)` is a run of a class the decoder accepts, with an offset that its field holds, and stands for `n` pairs
(43_codec_a_rle.md R220, R221). -/
theorem readRun_runCode {P : Params} (hlegal : P.legal) {n : Nat} (hlo : 1 ≤ n) (hhi : n ≤ 7200) (rest : List Bool) :
    readRun P (runCode n ++ rest) = .ok (n, rest) := by
  have hclass := legal_le_rlClassMax hlegal
  have hpos : 1 ≤ Nat.log2 (n + 1) := (Nat.le_log2 (by omega)).2 (by omega)
  have hmax : Nat.log2 (n + 1) < 13 := (Nat.log2_lt (by omega)).2 (by omega)
  have hlow : 2 ^ Nat.log2 (n + 1) ≤ n + 1 := Nat.log2_self_le (by omega)
  have hhigh : n + 1 < 2 ^ (Nat.log2 (n + 1) + 1) := Nat.lt_log2_self
  obtain ⟨w, hw⟩ := Nat.exists_eq_add_of_le' hpos
  have htoken : runToken n = .aRun w (n - runBase w) := by simp [runToken, hw]
  rw [hw] at hlow hhigh
  have hbase : runBase w + (n - runBase w) = n := by
    unfold runBase
    omega
  have hoffset : n - runBase w < 2 ^ (w + 1) := by
    rw [Nat.pow_succ] at hhigh
    unfold runBase
    omega
  rw [readRun_eq, runCode, htoken, readPacket_encode (by omega) hoffset]
  simp [hbase]

/-! ### What the encoder has still to write -/

/-- The run being counted, where the plane encoder is in RLE mode (43_codec_a_rle.md R232). -/
def PlaneEnc.run (st : PlaneEnc) : Option Nat :=
  if st.rle then some st.count else none

/-- The bits that the plane encoder writes for the pairs left, its final run included (43_codec_a_rle.md R232). -/
def planeTail : Option Nat → List Pair → List Bool
  | some count, [] => runCode count
  | none, [] => []
  | some count, v :: seq =>
    if v = 0 then planeTail (some (count + 1)) seq
    else runCode count ++ (encode (.aP v) ++ planeTail none seq)
  | none, v :: seq =>
    if v = 0 then encode .aT ++ planeTail (some 1) seq
    else encode (.aP v) ++ planeTail none seq

section
variable (count : Nat) {v : Pair} (seq : List Pair)

theorem planeTail_run_zero : planeTail (some count) (0 :: seq) = planeTail (some (count + 1)) seq := rfl

theorem planeTail_run_pair (hv : v ≠ 0) :
    planeTail (some count) (v :: seq) = runCode count ++ (encode (.aP v) ++ planeTail none seq) :=
  if_neg hv

theorem planeTail_data_zero : planeTail none (0 :: seq) = encode .aT ++ planeTail (some 1) seq := rfl

theorem planeTail_data_pair (hv : v ≠ 0) :
    planeTail none (v :: seq) = encode (.aP v) ++ planeTail none seq :=
  if_neg hv

end

/-- The encoder appends them to what it has written (43_codec_a_rle.md R232). -/
theorem foldl_put_flush_wb (seq : List Pair) (st : PlaneEnc) :
    (seq.foldl PlaneEnc.put st).flush.wb = st.wb ++ planeTail st.run seq := by
  induction seq generalizing st with
  | nil =>
    obtain ⟨rle, count, wb⟩ := st
    cases rle with
    | true => rfl
    | false => exact (List.append_nil wb).symm
  | cons v seq ih =>
    obtain ⟨rle, count, wb⟩ := st
    rw [List.foldl_cons, ih]
    by_cases hv : v = 0
    · subst hv
      cases rle with
      | true => rfl
      | false => exact List.append_assoc wb _ _
    · cases rle with
      | true =>
        rw [PlaneEnc.put_run_pair _ _ hv]
        simp [PlaneEnc.run, planeTail_run_pair _ _ hv]
      | false =>
        rw [PlaneEnc.put_data_pair _ _ hv]
        simp [PlaneEnc.run, planeTail_data_pair _ hv]

/-- A plane is written as its start bit and what the encoder has still to write then (43_codec_a_rle.md R231). -/
theorem encodePlane_zero_wb (wb : List Bool) (seq : List Pair) :
    (encodePlane wb (0 :: seq)).wb = wb ++ (encode .aS0 ++ planeTail (some 0) (0 :: seq)) := by
  rw [encodePlane, foldl_put_flush_wb, PlaneEnc.start_zero, List.append_assoc]
  rfl

theorem encodePlane_pair_wb (wb : List Bool) {v : Pair} (hv : v ≠ 0) (seq : List Pair) :
    (encodePlane wb (v :: seq)).wb = wb ++ (encode .aS1 ++ planeTail none (v :: seq)) := by
  rw [encodePlane, foldl_put_flush_wb, PlaneEnc.start_pair wb hv, List.append_assoc]
  rfl

/-! ### The decoder reads it -/

section
variable {P : Params} {n fuel : Nat} {packet : Packet} {pre plane : List Pair} {bits rest : List Bool}

/-- One turn of the decoder on an RLE packet that does not fill the plane (43_codec_a_rle.md R236). -/
theorem decodePlaneFrom_run {count : Nat} (hlegal : P.legal) (hlo : 1 ≤ count) (hhi : count ≤ 7200)
    (hopen : pre.length + count < n) :
    decodePlaneFrom P n (fuel + 1) .rle pre (runCode count ++ bits) =
      decodePlaneFrom P n fuel .data (pre ++ List.replicate count 0) bits := by
  rw [decodePlaneFrom, readRun_runCode hlegal hlo hhi]
  simp only [except_ok_bind, if_neg (show ¬ pre.length + count > n by omega), if_neg hopen.ne]

/-- An RLE packet that fills the plane (43_codec_a_rle.md R236). -/
theorem decodePlaneFrom_lastRun {count : Nat} (hlegal : P.legal) (hlo : 1 ≤ count) (hhi : count ≤ 7200)
    (hfull : pre.length + count = n) :
    decodePlaneFrom P n (fuel + 1) .rle pre (runCode count ++ rest) = .ok (pre ++ List.replicate count 0, rest) := by
  rw [decodePlaneFrom, readRun_runCode hlegal hlo hhi]
  simp only [except_ok_bind, if_neg (show ¬ pre.length + count > n by omega), if_pos hfull, except_pure]

/-- A group of data is a pair other than 0 (43_codec_a_rle.md R236). -/
theorem readBits_encode_aP (v : Pair) : readBits 2 (encode (.aP v) ++ rest) = .ok (v.toNat, rest) :=
  readBits_bitsOfNat 2 v.toNat rest v.isLt

/-- One turn of the decoder on a pair (43_codec_a_rle.md R236). -/
theorem decodePlaneFrom_pair {v : Pair} (hv : v ≠ 0) :
    decodePlaneFrom P n (fuel + 1) .data pre (encode (.aP v) ++ bits) =
      if pre.length + 1 = n then .ok (pre ++ [v], bits) else decodePlaneFrom P n fuel .data (pre ++ [v]) bits := by
  have hne : v.toNat ≠ 0 := fun h => hv (BitVec.eq_of_toNat_eq h)
  rw [decodePlaneFrom, readBits_encode_aP]
  simp [hne]

/-- One turn of the decoder on the terminator (43_codec_a_rle.md R236, R237). -/
theorem decodePlaneFrom_terminator :
    decodePlaneFrom P n (fuel + 1) .data pre (encode .aT ++ bits) = decodePlaneFrom P n fuel .rle pre bits := by
  have hread : readBits 2 (encode .aT ++ bits) = .ok (0, bits) := rfl
  rw [decodePlaneFrom, hread]
  simp

end

/-- The packet type that goes with the run being counted. -/
def packetOf (run : Option Nat) : Packet :=
  if run.isSome then .rle else .data

/-- The run being counted and the pairs left make up a plane's end: a run has a pair or one comes, and data has a pair left,
since a full plane ends at once (43_codec_a_rle.md R236, R237). -/
def PlaneOpen : Option Nat → List Pair → Prop
  | some count, seq => 1 ≤ count ∨ seq.head? = some 0
  | none, seq => seq ≠ []

theorem replicate_append_cons_zero (count : Nat) (seq : List Pair) :
    List.replicate count 0 ++ 0 :: seq = List.replicate (count + 1) 0 ++ seq := by
  rw [List.replicate_succ', List.append_assoc, List.singleton_append]

section
variable {P : Params} {n fuel : Nat} {pre seq : List Pair} {rest : List Bool}

/-- A pair, and the pairs after it unless it fills the plane (43_codec_a_rle.md R236). -/
theorem decodePlaneFrom_pairTail {v : Pair} (hv : v ≠ 0) (hlen : pre.length + (seq.length + 1) = n)
    (htail : seq ≠ [] → decodePlaneFrom P n fuel .data (pre ++ [v]) (planeTail none seq ++ rest) =
      .ok (pre ++ [v] ++ seq, rest)) :
    decodePlaneFrom P n (fuel + 1) .data pre (encode (.aP v) ++ planeTail none seq ++ rest) =
      .ok (pre ++ v :: seq, rest) := by
  rw [List.append_assoc, decodePlaneFrom_pair hv]
  by_cases hlast : seq = []
  · subst hlast
    exact if_pos hlen
  · have hpos := List.length_pos_iff.2 hlast
    rw [if_neg (by omega), htail hlast, List.append_assoc, List.singleton_append]

end

theorem runCode_length_pos (n : Nat) : 2 ≤ (runCode n).length :=
  (Nat.le_add_left _ _).trans_eq (Laws.EncodeLength.aRun _ _).symm

/-- The decoder reads what the encoder writes for the run being counted and the pairs left, up to the end of the plane, and
not one bit more (43_codec_a_rle.md R238). -/
theorem decodePlaneFrom_planeTail {P : Params} (hlegal : P.legal) {n : Nat} (hn : n ≤ 7200) (rest : List Bool)
    (seq : List Pair) (run : Option Nat) (fuel : Nat) (pre : List Pair) (hopen : PlaneOpen run seq)
    (hlen : pre.length + (run.getD 0 + seq.length) = n) (hfuel : (planeTail run seq).length < fuel) :
    decodePlaneFrom P n fuel (packetOf run) pre (planeTail run seq ++ rest) =
      .ok (pre ++ (List.replicate (run.getD 0) 0 ++ seq), rest) := by
  induction seq generalizing run fuel pre with
  | nil =>
    obtain ⟨fuel, rfl⟩ := Nat.exists_eq_add_of_le' (Nat.one_le_of_lt hfuel)
    cases run with
    | none => exact absurd rfl hopen
    | some count =>
      have hcount : 1 ≤ count := hopen.resolve_right (by simp)
      have hlen : pre.length + count = n := hlen
      rw [List.append_nil]
      exact decodePlaneFrom_lastRun hlegal hcount (by omega) hlen
  | cons v seq ih =>
    rw [List.length_cons] at hlen
    by_cases hv : v = 0
    · subst hv
      cases run with
      | some count =>
        have hlen : pre.length + (count + (seq.length + 1)) = n := hlen
        have htail := ih (some (count + 1)) fuel pre (.inl (Nat.succ_pos _)) (by rw [Option.getD_some]; omega) hfuel
        rwa [Option.getD_some, ← replicate_append_cons_zero] at htail
      | none =>
        obtain ⟨fuel, rfl⟩ := Nat.exists_eq_add_of_le' (Nat.one_le_of_lt hfuel)
        have hlen : pre.length + (0 + (seq.length + 1)) = n := hlen
        rw [planeTail_data_zero, List.length_append, Laws.EncodeLength.aT, rowBits] at hfuel
        rw [planeTail_data_zero, List.append_assoc]
        exact decodePlaneFrom_terminator.trans
          (ih (some 1) fuel pre (.inl le_rfl) (by rw [Option.getD_some]; omega) (by omega))
    · cases run with
      | some count =>
        have hcount : 1 ≤ count := hopen.resolve_right (by simpa using hv)
        have hlen : pre.length + (count + (seq.length + 1)) = n := hlen
        have hcode := runCode_length_pos count
        rw [planeTail_run_pair _ _ hv, List.length_append, List.length_append, Laws.EncodeLength.aP, rowBits] at hfuel
        obtain ⟨fuel, rfl⟩ := Nat.exists_eq_add_of_le' (show 2 ≤ fuel by omega)
        rw [planeTail_run_pair _ _ hv, List.append_assoc]
        refine (decodePlaneFrom_run hlegal hcount (by omega) (by omega)).trans ?_
        rw [← List.append_assoc pre]
        have hlen' : (pre ++ List.replicate count (0 : Pair)).length + (seq.length + 1) = n := by
          rw [List.length_append, List.length_replicate]
          omega
        refine decodePlaneFrom_pairTail hv hlen' fun hne => ?_
        refine ih none fuel _ hne ?_ (by omega)
        rw [List.length_append, List.length_singleton, Option.getD_none]
        omega
      | none =>
        have hlen : pre.length + (0 + (seq.length + 1)) = n := hlen
        rw [planeTail_data_pair _ hv, List.length_append, Laws.EncodeLength.aP, rowBits] at hfuel
        obtain ⟨fuel, rfl⟩ := Nat.exists_eq_add_of_le' (show 1 ≤ fuel by omega)
        rw [planeTail_data_pair _ hv]
        refine decodePlaneFrom_pairTail hv (by omega) fun hne => ?_
        refine ih none fuel _ hne ?_ (by omega)
        rw [List.length_append, List.length_singleton, Option.getD_none]
        omega

/-- Decoding an encoded plane gives the plane and leaves what follows it (43_codec_a_rle.md R238). -/
theorem decodePlane_encodePlane {P : Params} (hlegal : P.legal) {seq : List Pair} (hlo : 1 ≤ seq.length)
    (hhi : seq.length ≤ 7200) (rest : List Bool) :
    decodePlane P seq.length ((encodePlane [] seq).wb ++ rest) = .ok (seq, rest) := by
  cases seq with
  | nil => simp at hlo
  | cons v seq =>
    have htail := fun run hopen hrun => decodePlaneFrom_planeTail hlegal hhi rest (v :: seq) run
      ((planeTail run (v :: seq) ++ rest).length + 1) [] hopen hrun (by rw [List.length_append]; omega)
    by_cases hv : v = 0
    · subst hv
      rw [encodePlane_zero_wb]
      exact htail (some 0) (.inr rfl) (by simp)
    · rw [encodePlane_pair_wb [] hv]
      exact htail none (List.cons_ne_nil _ _) (by simp)

/-- Settles O53: the start bit, and then what the encoder has still to write. -/
theorem decodePlaneUndoesEncodePlane : Obligations.DecodePlaneUndoesEncodePlane := by
  unfold Obligations.DecodePlaneUndoesEncodePlane
  exact fun P seq rest hlegal hlo hhi => decodePlane_encodePlane hlegal hlo hhi rest

end Sys2Proof.Machine
end

section
/-! SUPPORT. The Codec A round trip (42_codec_a_planes.md R190 to R201, 43_codec_a_rle.md R245 to R252): each transform of the
encoder is undone by the decoder's. -/
namespace Sys2Proof.Machine

/-! ### Packing -/

/-- The bits of a packed byte: those that were given, and zero bits (41_bit_cursor.md R176). -/
theorem bitsOfByte_byteOfBits {bits : List Bool} (h : bits.length ≤ 8) :
    bitsOfByte (byteOfBits bits) = bits ++ List.replicate (8 - bits.length) false := by
  have hlen : (bits ++ List.replicate (8 - bits.length) false).length = 8 := by
    rw [List.length_append, List.length_replicate]
    omega
  have hlt := natOfBits_lt (bits ++ List.replicate (8 - bits.length) false)
  have hbits := bitsOfNat_natOfBits (bits ++ List.replicate (8 - bits.length) false)
  rw [hlen] at hlt hbits
  rw [byteOfBits, bitsOfByte, BitVec.toNat_ofNat, Nat.mod_eq_of_lt hlt, hbits]

/-- The bits of a packed sequence, up to the last byte's end (41_bit_cursor.md R176). -/
theorem bitsOfBytes_packBytes {m : Nat} {bits : List Bool} (h : bits.length ≤ 8 * m) :
    bitsOfBytes (packBytes m bits) = bits ++ List.replicate (8 * m - bits.length) false := by
  induction m generalizing bits with
  | zero =>
    obtain rfl : bits = [] := List.eq_nil_of_length_eq_zero (by omega)
    rfl
  | succ m ih =>
    rw [packBytes, bitsOfBytes_cons, ih (by rw [List.length_drop]; omega),
      bitsOfByte_byteOfBits (by rw [List.length_take]; omega), List.length_take, List.length_drop]
    rcases le_or_gt 8 bits.length with hle | hlt
    · rw [show 8 - min 8 bits.length = 0 by omega, List.replicate_zero, List.append_nil, ← List.append_assoc,
        List.take_append_drop, show 8 * m - (bits.length - 8) = 8 * (m + 1) - bits.length by omega]
    · rw [List.take_of_length_le hlt.le, List.drop_eq_nil_of_le hlt.le, List.nil_append, List.append_assoc,
        List.replicate_append_replicate, show 8 - min 8 bits.length + (8 * m - (bits.length - 8)) =
          8 * (m + 1) - bits.length by omega]

/-- A packed sequence is read as the bits that were packed and then zero bits (41_bit_cursor.md R176). -/
theorem bitsOfBytes_pack (bits : List Bool) : ∃ n, bitsOfBytes (pack bits) = bits ++ List.replicate n false :=
  ⟨_, bitsOfBytes_packBytes (by omega)⟩

/-! ### Planes -/

/-- A plane of `h` rows of `h` pixels (42_codec_a_planes.md R190). -/
structure Plane.Square (h : Nat) (pl : Plane) : Prop where
  rows : pl.length = h
  columns : ∀ row ∈ pl, row.length = h

theorem planeOf_square (h : Nat) (f : Nat → Nat → Bool) : (planeOf h f).Square h := by
  refine ⟨planeOf_length h f, fun row hrow => ?_⟩
  obtain ⟨y, -, rfl⟩ := List.mem_map.1 hrow
  simp

/-- A plane is made of its own pixels. -/
theorem Plane.Square.eq_planeOf {h : Nat} {pl : Plane} (hpl : pl.Square h) : planeOf h pl.at = pl := by
  obtain ⟨hrows, hcolumns⟩ := hpl
  refine List.ext_getElem (by simp [hrows]) fun y hy hy' => ?_
  have hrow := hcolumns pl[y] (List.getElem_mem hy')
  refine List.ext_getElem (by simp [planeOf, hrow]) fun x hx hx' => ?_
  simp [planeOf, Plane.at, hy', hx']

theorem planeOf_congr {h : Nat} {f g : Nat → Nat → Bool} (hfg : ∀ y x, y < h → x < h → f y x = g y x) :
    planeOf h f = planeOf h g := by
  refine List.map_congr_left fun y hy => List.map_congr_left fun x hx => ?_
  exact hfg y x (List.mem_range.1 hy) (List.mem_range.1 hx)

theorem deltaRow_length (c : Bool) (row : List Bool) : (deltaRow c row).length = row.length := by
  induction row generalizing c with
  | nil => rfl
  | cons b row ih => simp [deltaRow, ih]

theorem Plane.Square.delta {h : Nat} {pl : Plane} (hpl : pl.Square h) : (delta pl).Square h := by
  obtain ⟨hrows, hcolumns⟩ := hpl
  refine ⟨by simpa [Machine.delta] using hrows, fun row hrow => ?_⟩
  obtain ⟨raw, hraw, rfl⟩ := List.mem_map.1 hrow
  rw [deltaRow_length, hcolumns raw hraw]

/-! ### The pair scan -/

theorem pairOf_getLsbD_one (left right : Bool) : (pairOf left right).getLsbD 1 = left := by
  cases left <;> cases right <;> rfl

theorem pairOf_getLsbD_zero (left right : Bool) : (pairOf left right).getLsbD 0 = right := by
  cases left <;> cases right <;> rfl

/-- The pixel in column `x` is in the pair of column `x div 2`, the left pixel as the high bit (42_codec_a_planes.md
R194). -/
theorem pairAt_getLsbD (pl : Plane) {w y x : Nat} (hy : y < 8 * w) :
    (pairAt pl w (x / 2 * (8 * w) + y)).getLsbD (1 - x % 2) = pl.at y x := by
  have hrow : (x / 2 * (8 * w) + y) % (8 * w) = y := by
    rw [Nat.mul_add_mod', Nat.mod_eq_of_lt hy]
  have hcolumn : (x / 2 * (8 * w) + y) / (8 * w) = x / 2 := by
    rw [Nat.mul_comm, Nat.mul_add_div (by omega), Nat.div_eq_of_lt hy, Nat.add_zero]
  rw [pairAt, hrow, hcolumn]
  rcases Nat.mod_two_eq_zero_or_one x with hx | hx
  · rw [hx, pairOf_getLsbD_one, show 2 * (x / 2) = x by omega]
  · rw [hx, pairOf_getLsbD_zero, show 2 * (x / 2) + 1 = x by omega]

/-- `Unpair` undoes the pair scan (42_codec_a_planes.md R195). -/
theorem unpair_pairsOf {pl : Plane} {w : Nat} (hpl : pl.Square (8 * w)) : unpair (pairsOf pl w) w = pl := by
  refine (planeOf_congr fun y x hy hx => ?_).trans hpl.eq_planeOf
  have hindex : x / 2 * (8 * w) + y < Config.planePairs w := by
    have hhalf : x / 2 * (8 * w) ≤ (4 * w - 1) * (8 * w) := Nat.mul_le_mul_right _ (by omega)
    rw [Nat.sub_mul, show 4 * w * (8 * w) = 32 * (w * w) by ring] at hhalf
    have hsq : w ≤ w * w := Nat.le_mul_self w
    unfold Config.planePairs
    omega
  rw [← pairAt_getLsbD pl hy]
  simp [pairsOf, hindex]

/-! ### Repacking -/

/-- A byte from its bits, bit 7 first (20_memory.md R61). -/
theorem bitsOfByte_eq_map (b : Byte) : bitsOfByte b = (List.range 8).map fun i => b.getLsbD (7 - i) := rfl

/-- The byte that holds pixel `8·(k mod w) + i` of row `8·(k div w) + r` is byte `16k + 2r + p` (42_codec_a_planes.md
R191). -/
theorem pixelByte_tile (w k : Nat) {r i : Nat} (hr : r < 8) (hi : i < 8) (p : Nat) :
    pixelByte w p (8 * (k / w) + r) (8 * (k % w) + i) = 16 * k + 2 * r + p := by
  have hrow : (8 * (k / w) + r) / 8 = k / w := by omega
  have hcolumn : (8 * (k % w) + i) / 8 = k % w := by omega
  have hr' : (8 * (k / w) + r) % 8 = r := by omega
  rw [pixelByte, hrow, hcolumn, hr', Nat.div_add_mod]

/-- `Repack` undoes `Extract`: byte `n` is in plane `n mod 2` (42_codec_a_planes.md R193). -/
theorem repackByte_extract (data : List Byte) {w n : Nat} (hw : 1 ≤ w) (hn : n < Config.dataLen w) :
    repackByte (extract data w 0) (extract data w 1) w n = data.getD n 0 := by
  have htile : n / 16 < w * w := by
    unfold Config.dataLen at hn
    omega
  have hrow : n / 16 / w < w := Nat.div_lt_of_lt_mul htile
  have hcolumn : n / 16 % w < w := Nat.mod_lt _ hw
  have hbit : ∀ p, n % 2 = p → ∀ i < 8,
      (extract data w p).at (8 * (n / 16 / w) + n % 16 / 2) (8 * (n / 16 % w) + i) =
        (data.getD n 0).getLsbD (7 - i) := by
    intro p hp i hi
    rw [extract, planeOf_at _ (by omega) (by omega), pixelByte_tile w _ (by omega) hi,
      show 16 * (n / 16) + 2 * (n % 16 / 2) + p = n by omega, show (8 * (n / 16 % w) + i) % 8 = i by omega]
  rw [← byteOfBits_bitsOfByte (data.getD n 0), bitsOfByte_eq_map, repackByte]
  refine congrArg byteOfBits (List.map_congr_left fun i hi => ?_)
  rcases Nat.mod_two_eq_zero_or_one n with hplane | hplane
  · rw [if_pos hplane]
    exact hbit 0 hplane i (List.mem_range.1 hi)
  · rw [if_neg (by omega)]
    exact hbit 1 hplane i (List.mem_range.1 hi)

theorem repack_extract {data : List Byte} {w : Nat} (hw : 1 ≤ w) (hlen : data.length = Config.dataLen w) :
    repack (extract data w 0) (extract data w 1) w = data := by
  refine List.ext_getElem (by rw [repack_length, hlen]) fun n _ hn => ?_
  have hbyte := repackByte_extract data hw (hlen ▸ hn)
  simpa [repack, hn] using hbyte

/-! ### The cross-plane XOR -/

theorem xorPlane_planeOf (h : Nat) (f g : Nat → Nat → Bool) :
    xorPlane (planeOf h f) (planeOf h g) = planeOf h fun y x => xor (f y x) (g y x) := by
  simp [xorPlane, planeOf, List.zipWith_map]

/-- The XOR with a plane undoes itself (42_codec_a_planes.md R197). -/
theorem xorPlane_xorPlane (data : List Byte) (w p q : Nat) :
    xorPlane (xorPlane (extract data w p) (extract data w q)) (extract data w q) = extract data w p := by
  rw [extract, extract, xorPlane_planeOf, xorPlane_planeOf]
  simp only [Bool.xor_assoc, Bool.xor_self, Bool.xor_false]

theorem extract_square (data : List Byte) (w p : Nat) : (extract data w p).Square (8 * w) :=
  planeOf_square _ _

theorem xorPlane_square (data : List Byte) (w p q : Nat) :
    (xorPlane (extract data w p) (extract data w q)).Square (8 * w) := by
  rw [extract, extract, xorPlane_planeOf]
  exact planeOf_square _ _

/-! ### The stream -/

section
variable (data : List Byte) (w : Nat) (swap : Bool) (mode : Nat)

/-- The plane that is coded first, before its delta (43_codec_a_rle.md R245). -/
def firstRaw : Plane :=
  extract data w swap.toNat

/-- The plane that is coded second, before any transform (43_codec_a_rle.md R245). -/
def secondRaw : Plane :=
  extract data w (1 - swap.toNat)

/-- The second plane after the cross-plane XOR, which modes 1 and 2 make (42_codec_a_planes.md R199). -/
def secondMixed : Plane :=
  if mode ≠ 0 then xorPlane (secondRaw data w swap) (firstRaw data w swap) else secondRaw data w swap

/-- The second plane as it is coded: modes 0 and 2 make its delta (42_codec_a_planes.md R199). -/
def secondCoded : Plane :=
  if mode ≠ 1 then delta (secondMixed data w swap mode) else secondMixed data w swap mode

/-- An encoded plane after what has been written (43_codec_a_rle.md R232). -/
theorem encodePlane_wb (wb : List Bool) {seq : List Pair} (h : seq ≠ []) :
    (encodePlane wb seq).wb = wb ++ (encodePlane [] seq).wb := by
  cases seq with
  | nil => exact absurd rfl h
  | cons v seq =>
    by_cases hv : v = 0
    · subst hv
      rw [encodePlane_zero_wb, encodePlane_zero_wb, List.nil_append]
    · rw [encodePlane_pair_wb _ hv, encodePlane_pair_wb _ hv, List.nil_append]

theorem planePairs_pos {w : Nat} (hw : 1 ≤ w) : 1 ≤ Config.planePairs w :=
  Nat.mul_pos (by decide) (Nat.mul_pos hw hw)

theorem pairsOf_ne_nil (pl : Plane) {w : Nat} (hw : 1 ≤ w) : pairsOf pl w ≠ [] := by
  have hpos := planePairs_pos hw
  rw [← List.length_pos_iff, pairsOf_length]
  exact hpos

/-- The stream is the header, the order bit, the first plane, the mode and the second plane (43_codec_a_rle.md R245). -/
theorem aEncodeStream_eq {w : Nat} (hw : 1 ≤ w) :
    aEncodeStream data w swap mode =
      encode (.aHdr w w) ++ (encode (.aOrd swap) ++
        ((encodePlane [] (pairsOf (delta (firstRaw data w swap)) w)).wb ++ (encode (modeToken mode) ++
          (encodePlane [] (pairsOf (secondCoded data w swap mode) w)).wb))) := by
  change (encodePlane ((encodePlane (encode (.aHdr w w) ++ encode (.aOrd swap))
    (pairsOf (delta (firstRaw data w swap)) w)).wb ++ encode (modeToken mode))
      (pairsOf (secondCoded data w swap mode) w)).wb = _
  rw [encodePlane_wb _ (pairsOf_ne_nil _ hw), encodePlane_wb (_ ++ _) (pairsOf_ne_nil _ hw)]
  simp only [List.append_assoc]

theorem firstRaw_square : (firstRaw data w swap).Square (8 * w) :=
  extract_square _ _ _

theorem secondMixed_square : (secondMixed data w swap mode).Square (8 * w) := by
  unfold secondMixed
  split_ifs
  · exact xorPlane_square _ _ _ _
  · exact extract_square _ _ _

/-- The decoder takes back the delta of the second plane where the encoder made it (42_codec_a_planes.md R201). -/
theorem undo_secondCoded :
    (if mode ≠ 1 then undelta (unpair (pairsOf (secondCoded data w swap mode) w) w)
      else unpair (pairsOf (secondCoded data w swap mode) w) w) = secondMixed data w swap mode := by
  have hmixed := secondMixed_square data w swap mode
  unfold secondCoded
  split_ifs
  · rw [unpair_pairsOf hmixed.delta, undelta_delta]
  · rw [unpair_pairsOf hmixed]

/-- The decoder takes back the cross-plane XOR where the encoder made it (42_codec_a_planes.md R201). -/
theorem undo_secondMixed :
    (if mode ≠ 0 then xorPlane (secondMixed data w swap mode) (firstRaw data w swap)
      else secondMixed data w swap mode) = secondRaw data w swap := by
  unfold secondMixed
  split_ifs
  · exact xorPlane_xorPlane _ _ _ _
  · rfl

end

/-- The decoder rebuilds the data from the pairs of the coded planes (42_codec_a_planes.md R201). -/
theorem reconstruct_coded {data : List Byte} {w : Nat} (hw : 1 ≤ w) (hlen : data.length = Config.dataLen w) (swap : Bool)
    (mode : Nat) :
    (reconstruct (pairsOf (delta (firstRaw data w swap)) w) (pairsOf (secondCoded data w swap mode) w) w swap mode).data =
      data := by
  have hfirst : undelta (unpair (pairsOf (delta (firstRaw data w swap)) w) w) = firstRaw data w swap := by
    rw [unpair_pairsOf (firstRaw_square data w swap).delta, undelta_delta]
  simp only [reconstruct, hfirst, undo_secondCoded, undo_secondMixed]
  cases swap <;> exact repack_extract hw hlen

section
variable {P : Params} {w : Nat}

/-- The decoder reads a coded plane as its pairs (43_codec_a_rle.md R238). -/
theorem decodePlane_pairsOf (hlegal : P.legal) (hlo : 1 ≤ w) (hhi : w ≤ 15) (pl : Plane) (rest : List Bool) :
    decodePlane P (Config.planePairs w) ((encodePlane [] (pairsOf pl w)).wb ++ rest) = .ok (pairsOf pl w, rest) := by
  have hpairs := pairsOf_length pl w
  have hsq : w * w ≤ 15 * 15 := Nat.mul_le_mul hhi hhi
  have hpos := planePairs_pos hlo
  have hmax : Config.planePairs w ≤ 7200 := by
    unfold Config.planePairs
    omega
  rw [← hpairs]
  exact decodePlane_encodePlane hlegal (by omega) (by omega) rest

/-- The header reads back (43_codec_a_rle.md R250). -/
theorem readSize_encode_aHdr (hhi : w ≤ 15) (rest : List Bool) :
    readSize (encode (.aHdr w w) ++ rest) = .ok ((w, w), rest) := by
  have hw : w < 2 ^ 4 := by omega
  simp [readSize, encode, readBits_bitsOfNat 4 w _ hw]

/-- The stream decoder on the encoder's stream and any bits after it (43_codec_a_rle.md R252). -/
theorem aDecodeStream_aEncodeStream (hlegal : P.legal) (hlo : 1 ≤ w) (hhi : w ≤ 15) {data : List Byte}
    (hlen : data.length = Config.dataLen w) (swap : Bool) {mode : Nat} (hmode : mode ≤ 2) (more : List Bool) :
    aDecodeStream P (aEncodeStream data w swap mode ++ more) =
      .ok { data := data, width := w, order := swap, mode := mode } := by
  have horder : (swap.toNat == 1) = swap := by cases swap <;> rfl
  have hread : ∀ rest, readBits 1 (encode (.aOrd swap) ++ rest) = .ok (swap.toNat, rest) :=
    readBits_one_cons swap
  rw [aEncodeStream_eq data swap mode hlo, aDecodeStream_eq]
  simp only [List.append_assoc, readSize_encode_aHdr hhi, hread, except_ok_bind, decodeSized, ne_eq, not_true_eq_false,
    if_false, if_neg (show w ≠ 0 by omega), decodePlanes, decodePlane_pairsOf hlegal hlo hhi, readMode_modeToken hmode,
    decodeSecond, horder, reconstruct_coded hlo hlen, except_pure]

end

/-- Settles O54: the packed stream is read as its bits and some zero bits, and the decoder undoes the encoder on it. -/
theorem codecARoundTrip : Obligations.CodecARoundTrip := by
  unfold Obligations.CodecARoundTrip
  intro P w data swap mode hlegal hlo hhi hlen hmode
  obtain ⟨n, hpack⟩ := bitsOfBytes_pack (aEncodeStream data w swap mode)
  rw [aDecode, hpack]
  exact aDecodeStream_aEncodeStream hlegal hlo hhi hlen swap hmode _

/-- Settles O58: the bound on the bits, and the bytes they pack to. -/
theorem encodedStreamSizeBound : Obligations.EncodedStreamSizeBound := by
  unfold Obligations.EncodedStreamSizeBound
  exact fun data w swap mode hlo =>
    ⟨aEncodeStream_length_le data hlo swap mode, fun hhi => pack_aEncodeStream_length_le data hlo hhi swap mode⟩

end Sys2Proof.Machine
end

section
/-! SUPPORT. The nibble tables against the row delta (42_codec_a_planes.md R203). -/
namespace Sys2Proof.Machine

/-- The table `E_c` is the delta of a row of four pixels (42_codec_a_planes.md R203). -/
theorem deltaTable_row (c p3 p2 p1 p0 : Bool) :
    bitsOfNat 4 ((deltaTable c).getD (natOfBits [p3, p2, p1, p0]) 0).toNat = deltaRow c [p3, p2, p1, p0] := by
  revert c p3 p2 p1 p0
  decide

/-- The table `D_c` undoes the delta of a row of four pixels (42_codec_a_planes.md R203). -/
theorem undeltaTable_row (c g3 g2 g1 g0 : Bool) :
    bitsOfNat 4 ((undeltaTable c).getD (natOfBits [g3, g2, g1, g0]) 0).toNat = undeltaRow c [g3, g2, g1, g0] := by
  revert c g3 g2 g1 g0
  decide

/-- Bit 0 of the decoded nibble is the carry after the four pixels (42_codec_a_planes.md R203). -/
theorem undeltaTable_carry (c g3 g2 g1 g0 : Bool) :
    ((undeltaTable c).getD (natOfBits [g3, g2, g1, g0]) 0).getLsbD 0 = xor (xor (xor (xor c g3) g2) g1) g0 := by
  revert c g3 g2 g1 g0
  decide

/-- The delta by the tables is the delta, on rows of whole nibbles (42_codec_a_planes.md R203). -/
theorem deltaByTable_eq : ∀ (c : Bool) (row : List Bool), row.length % 4 = 0 → deltaByTable c row = deltaRow c row
  | _, [], _ => rfl
  | c, p3 :: p2 :: p1 :: p0 :: row, h => by
    have hrow : row.length % 4 = 0 := by simpa [Nat.add_assoc] using h
    rw [deltaByTable, deltaTable_row, deltaByTable_eq p0 row hrow]
    rfl
  | _, [_], h | _, [_, _], h | _, [_, _, _], h => absurd h (by simp)

/-- Undoing the delta by the tables is undoing it, on rows of whole nibbles (42_codec_a_planes.md R203). -/
theorem undeltaByTable_eq :
    ∀ (c : Bool) (row : List Bool), row.length % 4 = 0 → undeltaByTable c row = undeltaRow c row
  | _, [], _ => rfl
  | c, g3 :: g2 :: g1 :: g0 :: row, h => by
    have hrow : row.length % 4 = 0 := by simpa [Nat.add_assoc] using h
    rw [undeltaByTable, undeltaTable_row, undeltaTable_carry, undeltaByTable_eq _ row hrow]
    rfl
  | _, [_], h | _, [_, _], h | _, [_, _, _], h => absurd h (by simp)

/-- The tables hold the values of the formulas, and the second formula undoes the first (42_codec_a_planes.md R203). -/
theorem nibbleTables_eq (c : Bool) (n : BitVec 4) :
    (deltaTable c).getD n.toNat 0 = nibbleDelta c n ∧ (undeltaTable c).getD n.toNat 0 = nibbleUndelta c n ∧
      nibbleUndelta c (nibbleDelta c n) = n := by
  revert c n
  decide

/-- Settles O59: nibble by nibble along the row, and the two tables over their 16 values. -/
theorem nibbleTablesComputeTheDelta : Obligations.NibbleTablesComputeTheDelta := by
  unfold Obligations.NibbleTablesComputeTheDelta
  exact ⟨fun c row h => ⟨deltaByTable_eq c row h, undeltaByTable_eq c row h⟩, nibbleTables_eq⟩

end Sys2Proof.Machine
end

section
/-! SUPPORT. Everything a row can do, and everything a fetch can answer. The statements about all rows and all steps are
derived from these two. -/
namespace Sys2Proof.Machine

/-! ### Everything a row can do -/

/-- Where a row that goes on leaves the engine: an operation code starts a decoder on an input that fits, a Codec B row moves
on in its stream, a Codec A token stays where its fetch has put the cursor, and the padding does not go on (log 7). -/
def GoesOn (s : State) (w : Work) (p : Phase) : Space → Prop
  | .op => s.lInLen.toNat ≤ s.cfg.bufSize ∧ w = Work.init ∧ (p = .aHdr ∨ p = .bScan)
  | .bHeader | .bOffset => w.rc = s.work.rc ∧ s.work.rp ≤ w.rp ∧ p.inStreamB = true
  | .aHdr | .aOrd | .aStart | .aData | .aRle | .aMode => w.rc = s.work.rc ∧ p.inStreamA = true
  | .aPad => False

/-- Everything a row of a code space can do: go on, fail, or complete with a result (log 7, 40_operations.md R134). The
cursor stays or is that of the operation's start, and INFO.MODE is never 3 (10_state.md R29). -/
inductive RowResult (s : State) (sp : Space) : State → Prop
  | goesOn {w : Work} {p : Phase} (h : GoesOn s w p sp) : RowResult s sp ((s.setWork w).goto p)
  | fails {w : Work} {e : Err} (hrc : w.rc = s.work.rc) : RowResult s sp ((s.setWork w).raise e)
  | completes {w : Work} {bytes : List Byte} {info : BitVec 7} (hrc : w.rc = s.work.rc ∨ w.rc = Work.init.rc)
      (hinfo : (sp = .aPad → s.work.width ≤ 15 ∧ s.work.mode ≤ 2) → paramMode info ≠ 3) :
      RowResult s sp ((s.setWork w).complete bytes info)

theorem goesOn_ne_idle {s : State} {w : Work} {p : Phase} {sp : Space} (h : GoesOn s w p sp) : p ≠ .idle := by
  rintro rfl
  cases sp with
  | op =>
    obtain ⟨-, -, h⟩ := h
    cases h <;> contradiction
  | bHeader | bOffset =>
    obtain ⟨-, -, h⟩ := h
    cases h
  | aHdr | aOrd | aStart | aData | aRle | aMode =>
    obtain ⟨-, h⟩ := h
    cases h
  | aPad => exact h

/-- INFO.MODE of fields that fit (10_state.md R29). -/
theorem paramMode_infoOf {width mode : Nat} (hwidth : width ≤ 15) (hmode : mode ≤ 3) (order : Bool) :
    paramMode (infoOf width order mode) = mode := by
  have horder := Bool.toNat_le order
  rw [paramMode, infoOf, BitVec.toNat_ofNat]
  omega

section
variable (s : State)

theorem result_raise (sp : Space) (e : Err) : RowResult s sp (s.raise e) :=
  .fails (w := s.work) rfl

theorem result_append (n : Nat) (bs : List Byte) :
    RowResult s .bHeader ((s.setWork { s.work with rp := s.work.rp + n }).append bs) := by
  rcases (s.setWork { s.work with rp := s.work.rp + n }).append_cases bs with ⟨-, h⟩ | ⟨-, h⟩ <;> rw [h]
  · exact .goesOn (w := { s.work with rp := s.work.rp + n, out := s.work.out ++ bs }) ⟨rfl, Nat.le_add_right _ _, rfl⟩
  · exact .fails (w := { s.work with rp := s.work.rp + n }) rfl

theorem result_withPayload (n : Nat) (f : List Byte → List Byte) : RowResult s .bHeader (s.withPayload n f) := by
  rcases s.withPayload_cases n f with ⟨-, h⟩ | ⟨-, h⟩ <;> rw [h]
  · exact result_append s n _
  · exact result_raise s _ _

theorem result_awaitOffset (kind : CopyKind) (len : Nat) : RowResult s .bHeader (s.awaitOffset kind len) :=
  .goesOn (w := { s.work with copy := kind, len := len }) ⟨rfl, le_rfl, rfl⟩

theorem result_runCopy (src : Int) : RowResult s .bOffset (s.runCopy src) := by
  rcases s.runCopy_cases src with ⟨-, h⟩ | ⟨-, -, h⟩ | ⟨-, -, h⟩ <;> rw [h]
  · exact result_raise s _ _
  · exact result_raise s _ _
  · exact .goesOn ⟨rfl, le_rfl, rfl⟩

theorem result_produce {sp : Space} (hsp : sp = .aData ∨ sp = .aRle) (seq : List Pair) (next : Packet) :
    RowResult s sp (s.produce seq next) := by
  rcases s.produce_cases seq next with ⟨-, -, h⟩ | ⟨-, -, h⟩ | ⟨-, h⟩ <;> rw [h] <;>
    rcases hsp with rfl | rfl <;> exact .goesOn ⟨rfl, rfl⟩

theorem result_withInput {run : List Byte → State}
    (h : ∀ data, s.lInLen.toNat ≤ s.cfg.bufSize → RowResult s .op (run data)) : RowResult s .op (s.withInput run) := by
  rcases s.withInput_cases run with ⟨hfits, hrun⟩ | ⟨-, hrun⟩ <;> rw [hrun]
  · exact h _ hfits
  · exact result_raise s _ _

theorem result_beginDecode {p : Phase} (hfits : s.lInLen.toNat ≤ s.cfg.bufSize) (hp : p = .aHdr ∨ p = .bScan) :
    RowResult s .op (s.beginDecode p) :=
  .goesOn (w := Work.init) ⟨hfits, rfl, hp⟩

/-- A header row (44_codec_b_commands.md R290). -/
theorem result_runHeader (h : Header) : RowResult s .bHeader (s.runHeader h) := by
  cases h with
  | stop => exact .completes (w := s.work) (.inl rfl) fun _ => by decide
  | reserved => exact result_raise s _ _
  | command kind len =>
    rcases kind with _ | _ | _ | _ | kind
    · exact result_withPayload s len id
    · exact result_withPayload s 1 _
    · exact result_withPayload s 2 (altBytes len)
    · exact result_append s 0 _
    · exact result_awaitOffset s _ len

/-- A_COMPRESS (40_operations.md R140). -/
theorem result_aCompress : ∃ t, exec .aCompress s = .next t ∧ RowResult s .op t := by
  refine ⟨_, rfl, result_withInput s fun data _ => ?_⟩
  cases hcheck : checkCompress (paramWidth s.lParam) (paramMode s.lParam) data.length with
  | error e => exact result_raise s _ e
  | ok _ =>
    obtain ⟨⟨-, hwidth⟩, -, hmode⟩ := (checkCompress_ok _ _ _).1 hcheck
    have hle : paramMode s.lParam ≤ 3 := by
      unfold paramMode
      omega
    exact .completes (.inr rfl) fun _ => by rwa [paramMode_infoOf hwidth hle]

/-- A_COMPRESS_AUTO (40_operations.md R145). -/
theorem result_aCompressAuto : ∃ t, exec .aCompressAuto s = .next t ∧ RowResult s .op t := by
  refine ⟨_, rfl, result_withInput s fun data _ => ?_⟩
  by_cases hwidth : takenWidth (paramWidth s.lParam) data.length = 0 ∨
      data.length ≠ Config.dataLen (takenWidth (paramWidth s.lParam) data.length)
  · rw [autoWidth_error hwidth]
    exact result_raise s _ _
  · rw [not_or, not_not] at hwidth
    obtain ⟨hpos, hlen⟩ := hwidth
    have hhi := takenWidth_le s.lParam data.length
    obtain ⟨b, hbest, hmem, -⟩ :=
      autoBest_firstShortest data (takenWidth (paramWidth s.lParam) data.length)
    have hmode := mem_autoChoices.1 hmem
    rw [autoWidth_ok (Nat.one_le_iff_ne_zero.2 hpos) hhi hlen]
    simp only [hbest]
    exact .completes (.inr rfl) fun _ => by rw [paramMode_infoOf hhi (by omega)]; omega

/-- B_COMPRESS (40_operations.md R155). -/
theorem result_bCompress : ∃ t, exec .bCompress s = .next t ∧ RowResult s .op t := by
  refine ⟨_, rfl, result_withInput s fun data _ => ?_⟩
  split_ifs
  · exact result_raise s _ _
  · exact .completes (.inr rfl) fun _ => by decide

/-- A_HDR (43_codec_a_rle.md R250). -/
theorem result_aHdr (w h : Nat) : ∃ t, exec (.aHdr w h) s = .next t ∧ RowResult s .aHdr t := by
  refine ⟨_, rfl, ?_⟩
  split_ifs
  · exact result_raise s _ _
  · exact result_raise s _ _
  · exact .goesOn ⟨rfl, rfl⟩

/-- A_RUN (43_codec_a_rle.md R236). -/
theorem result_aRun (w v : Nat) : ∃ t, exec (.aRun w v) s = .next t ∧ RowResult s .aRle t := by
  refine ⟨_, rfl, ?_⟩
  split_ifs
  · exact result_raise s _ _
  · exact result_produce s (.inr rfl) _ _

/-- Every row goes on, fails or completes. -/
theorem exec_result (i : Instr) : ∃ t, exec i s = .next t ∧ RowResult s i.space t := by
  have hheader : ∀ i : Instr, i.space = .bHeader → ∃ t, exec i s = .next t ∧ RowResult s .bHeader t :=
    fun i h => ⟨_, exec_header h s, result_runHeader s _⟩
  cases i with
  | aCompress => exact result_aCompress s
  | aCompressAuto => exact result_aCompressAuto s
  | bCompress => exact result_bCompress s
  | aDecompress => exact ⟨_, rfl, result_withInput s fun _ hfits => result_beginDecode s hfits (.inl rfl)⟩
  | bDecompress => exact ⟨_, rfl, result_withInput s fun _ hfits => result_beginDecode s hfits (.inr rfl)⟩
  | opReserved0 | opReserved6 | opReserved7 => exact ⟨_, rfl, result_raise s _ _⟩
  | lit | iter | alt | zero | rep | flip | reverse | litLong | iterLong | altLong | zeroLong | repLong | flipLong
  | reverseLong | longReservedFC | longReservedFD | longReservedFE | stop => exact hheader _ rfl
  | offRel | offAbs => exact ⟨_, rfl, result_runCopy s _⟩
  | aHdr w h => exact result_aHdr s w h
  | aRun w v => exact result_aRun s w v
  | aP pair => exact ⟨_, rfl, result_produce s (.inl rfl) _ _⟩
  | aOrd | aS0 | aS1 | aT | aM0 | aM1 | aM2 => exact ⟨_, rfl, .goesOn ⟨rfl, rfl⟩⟩
  | aPad n =>
    refine ⟨_, rfl, .completes (.inl rfl) fun hfields => ?_⟩
    obtain ⟨hwidth, hmode⟩ := hfields rfl
    rw [paramMode_infoOf hwidth (by omega)]
    omega

end

/-! ### What follows for all rows -/

section
variable {s t : State} {i : Instr}

/-- A row's answer is one of them. -/
theorem result_of_exec (h : exec i s = .next t) : RowResult s i.space t := by
  obtain ⟨t', hexec, hresult⟩ := exec_result s i
  rw [h, Host.Outcome.next.injEq] at hexec
  exact hexec ▸ hresult

/-- Settles O28: a row that goes on has set the working registers and the control state. -/
theorem runningRowsTouchOnlyTheEngine : Obligations.RunningRowsTouchOnlyTheEngine := by
  unfold Obligations.RunningRowsTouchOnlyTheEngine
  intro i s t hexec hbusy
  cases result_of_exec hexec with
  | goesOn _ => exact ⟨rfl, fun _ => rfl, fun _ => rfl⟩
  | fails _ => exact absurd rfl hbusy
  | completes _ _ => exact absurd (State.complete_phase _ _ _) hbusy

/-- Settles O29: a row that is over has failed or completed, and both are error entry or completion after the working
registers have been set. -/
theorem completionWritesOnlyTheResult : Obligations.CompletionWritesOnlyTheResult := by
  unfold Obligations.CompletionWritesOnlyTheResult
  intro i s t hexec hidle
  cases result_of_exec hexec with
  | goesOn h => exact absurd hidle (goesOn_ne_idle h)
  | fails _ => exact ⟨rfl, fun _ => rfl⟩
  | @completes w bytes info _ _ =>
    rcases (s.setWork w).complete_cases bytes info with ⟨-, h⟩ | ⟨-, h⟩ <;> rw [h] <;> exact ⟨rfl, fun _ => rfl⟩

/-- The engine's move always answers a state (60_exceptions.md R370). -/
theorem engineStep_next (s : State) : ∃ t, engineStep s = .next t := by
  unfold engineStep
  cases s.fetch with
  | idle => exact ⟨s, rfl⟩
  | run i s' =>
    obtain ⟨t, hexec, -⟩ := exec_result s' i
    exact ⟨t, hexec⟩
  | stop e => exact ⟨s.raise e, rfl⟩

/-- The step with nothing waiting, and with an event waiting (10_state.md R20, log 4). -/
theorem step_of_events {e : HostEvent} {rest : List HostEvent} (h : s.events = e :: rest) :
    step s = if hostMoves s then hostStep e { s with events := rest, turn := s.turn + 1 }
      else engineStep { s with turn := s.turn + 1 } := by
  simp only [step, h]

/-- Out of reset a host access is served, and in reset it is refused (70_reset_and_hazards.md R400, log 8). -/
theorem hostStep_access {s : State} (hrst : s.rst = false) (a : HostAccess) :
    hostStep (.access a) s = .next (s.hostAccess a) := by
  simp [hostStep, hrst]

theorem hostStep_access_in_reset {s : State} (hrst : s.rst = true) (a : HostAccess) :
    hostStep (.access a) s = .refused .hostAccessDuringReset := by
  simp [hostStep, hrst]

/-- Settles O14: the engine answers a state, and so does the host but for an access in reset. -/
theorem onlyResetAccessIsRefused : Obligations.OnlyResetAccessIsRefused := by
  unfold Obligations.OnlyResetAccessIsRefused
  intro s
  cases hevents : s.events with
  | nil =>
    rw [step_of_no_events hevents]
    exact .inl (engineStep_next s)
  | cons e rest =>
    rw [step_of_events hevents]
    by_cases hhost : hostMoves s = true
    · rw [if_pos hhost]
      cases e with
      | reset level => cases level <;> exact .inl ⟨_, rfl⟩
      | access a =>
        cases hrst : s.rst with
        | true => exact .inr ⟨hostStep_access_in_reset rfl a, rfl, a, rest, rfl⟩
        | false => exact .inl ⟨_, hostStep_access rfl a⟩
    · rw [if_neg hhost]
      exact .inl (engineStep_next _)

end

end Sys2Proof.Machine
end

section
/-! SUPPORT. The engine's move by its phase (10_state.md R34, log 7): the row it fetches, the error it meets, and whose turn it
is. -/
namespace Sys2Proof.Machine

section
variable {s : State} {sp : Space} {i : Instr} {rest : List Bool} {e : Err}

/-- The phases in which a Codec B row is fetched, with its code space (44_codec_b_commands.md R290). -/
def State.FetchesB (s : State) (sp : Space) : Prop :=
  (s.phase = .bScan ∧ sp = .bHeader) ∨ (s.phase = .bPayload ∧ sp = .bOffset)

/-- The phases in which a Codec A token is fetched, with its code space (43_codec_a_rle.md R236, R250). -/
def State.FetchesA (s : State) (sp : Space) : Prop :=
  (s.phase = .aHdr ∧ sp = .aHdr) ∨ (s.phase = .aOrd ∧ sp = .aOrd) ∨ (s.phase = .aStart ∧ sp = .aStart) ∨
    (s.phase = .aMode ∧ sp = .aMode) ∨ (s.phase = .aPacket ∧ sp = s.work.packet.space)

theorem State.FetchesB.fetch_eq (h : s.FetchesB sp) : s.fetch = s.fetchB sp := by
  rcases h with ⟨hphase, rfl⟩ | ⟨hphase, rfl⟩ <;> rw [State.fetch, hphase]

theorem State.FetchesA.fetch_eq (h : s.FetchesA sp) : s.fetch = s.fetchA sp s.windowA := by
  rcases h with ⟨hphase, rfl⟩ | ⟨hphase, rfl⟩ | ⟨hphase, rfl⟩ | ⟨hphase, rfl⟩ | ⟨hphase, rfl⟩ <;>
    rw [State.fetch, hphase]

/-- A Codec B row runs with the read index past it (44_codec_b_commands.md R291). -/
theorem engineStep_fetchB (h : s.FetchesB sp) (hdec : decode s.cfg sp s.windowB = .ok (i, rest)) :
    engineStep s = exec i (s.setWork (s.work.skipTo (s.work.rp + (s.windowB.length - rest.length) / 8))) := by
  rw [engineStep, h.fetch_eq, State.fetchB, hdec]
  rfl

theorem engineStep_fetchB_error (h : s.FetchesB sp) (hdec : decode s.cfg sp s.windowB = .error e) :
    engineStep s = .next (s.raise e) := by
  rw [engineStep, h.fetch_eq, State.fetchB, hdec]

/-- A Codec A token runs with the cursor past it (41_bit_cursor.md R170). -/
theorem engineStep_fetchA (h : s.FetchesA sp) (hdec : decode s.cfg sp s.windowA = .ok (i, rest)) :
    engineStep s =
      exec i (s.setWork (s.work.moveTo (s.work.rc.advance (s.windowA.length - rest.length)))) := by
  rw [engineStep, h.fetch_eq, State.fetchA, hdec]
  rfl

theorem engineStep_fetchA_error (h : s.FetchesA sp) (hdec : decode s.cfg sp s.windowA = .error e) :
    engineStep s = .next (s.raise e) := by
  rw [engineStep, h.fetch_eq, State.fetchA, hdec]

/-- The padding runs with the cursor past it, whatever its bits are (30_encoding.md R98). -/
theorem engineStep_fetchPad (h : s.phase = .aPad) :
    engineStep s = exec (.aPad s.windowPad.length)
      (s.setWork (s.work.moveTo (s.work.rc.advance s.windowPad.length))) := by
  rw [engineStep, State.fetch, h]
  rfl

/-- An IDLE engine keeps every value (60_exceptions.md R390). -/
theorem engineStep_idle (h : s.phase = .idle) : engineStep s = .next s := by
  rw [engineStep, State.fetch, h]

end

/-- Settles O11: with nothing waiting the engine moves, and its move is given by its phase. -/
theorem engineRunsTheDecodedRow : Obligations.EngineRunsTheDecodedRow := by
  unfold Obligations.EngineRunsTheDecodedRow
  intro s i rest hevents
  refine ⟨fun hphase => step_of_dispatch hphase hevents, fun sp hsp hdec => ?codecB, fun sp hsp hdec => ?codecA,
    fun hphase => ?padding⟩
  case codecB => exact (step_of_no_events hevents).trans (engineStep_fetchB hsp hdec)
  case codecA => exact (step_of_no_events hevents).trans (engineStep_fetchA hsp hdec)
  case padding => exact (step_of_no_events hevents).trans (engineStep_fetchPad hphase)

/-- Settles O12: with nothing waiting the engine moves, and bits that do not decode are an error entry. -/
theorem engineReportsFetchErrors : Obligations.EngineReportsFetchErrors := by
  unfold Obligations.EngineReportsFetchErrors
  exact fun s e hevents =>
    ⟨fun sp hsp hdec => (step_of_no_events hevents).trans (engineStep_fetchB_error hsp hdec),
      fun sp hsp hdec => (step_of_no_events hevents).trans (engineStep_fetchA_error hsp hdec)⟩

/-- When the host moves first (log 4). -/
theorem hostMoves_iff (s : State) :
    hostMoves s = true ↔ s.rst = true ∨ s.phase = .idle ∨ Config.hostFirst s.turn = true := by
  simp [hostMoves, or_assoc]

/-- Settles O13: the queue is empty, or its first event is served exactly where the host moves. -/
theorem hostAndEngineTakeTurns : Obligations.HostAndEngineTakeTurns := by
  unfold Obligations.HostAndEngineTakeTurns
  refine ⟨fun s hevents => ?alone, fun s e rest hevents => ⟨fun hquiet => ?quiet, fun hbusy hrst => ?choice⟩⟩
  case alone =>
    have hstep := step_of_no_events hevents
    exact ⟨hstep, fun hidle => hstep.trans (engineStep_idle hidle)⟩
  case quiet =>
    have hhost : hostMoves s = true := (hostMoves_iff s).2 (hquiet.elim (fun h => .inr (.inl h)) .inl)
    rw [step_of_events hevents, if_pos hhost]
  case choice =>
    have hhost : hostMoves s = Config.hostFirst s.turn := by simp [hostMoves, hrst, hbusy]
    rw [step_of_events hevents, hhost]

end Sys2Proof.Machine
end

section
/-! SUPPORT. The Codec B commands where their checks pass (44_codec_b_commands.md R290 to R300). -/
namespace Sys2Proof.Machine

/-! ### Payloads and appends -/

section
variable {s : State} {n : Nat}

/-- The engine scans on with a longer output. -/
def State.scanned (s : State) (rp : Nat) (out : List Byte) : State :=
  { s with phase := .bScan, work := { s.work with rp := rp, out := out } }

/-- An append that fits (44_codec_b_commands.md R302). -/
theorem State.append_of_le {bs : List Byte} (h : s.work.out.length + bs.length ≤ s.cfg.bufSize) :
    s.append bs = s.scanned s.work.rp (s.work.out ++ bs) := by
  rcases s.append_cases bs with ⟨-, happend⟩ | ⟨hlong, -⟩
  · exact happend
  · omega

/-- A command whose payload is there and whose bytes fit (44_codec_b_commands.md R303 steps 3, 5 and 6). -/
theorem State.withPayload_of_le {f : List Byte → List Byte} (hpayload : s.work.rp + n ≤ s.lInLen.toNat)
    (hfits : s.work.out.length + (f ((List.range n).map fun j => s.readIn (s.work.rp + j))).length ≤ s.cfg.bufSize) :
    s.withPayload n f = s.scanned (s.work.rp + n)
      (s.work.out ++ f ((List.range n).map fun j => s.readIn (s.work.rp + j))) := by
  rcases s.withPayload_cases n f with ⟨-, happend⟩ | ⟨⟨hmissing, -⟩, -⟩
  · rw [happend]
    exact State.append_of_le (s := s.setWork { s.work with rp := s.work.rp + n }) hfits
  · omega

/-- A command whose payload runs past the input (44_codec_b_commands.md R303 step 3). -/
theorem State.withPayload_of_lt {f : List Byte → List Byte} (hpos : 1 ≤ n) (h : s.lInLen.toNat < s.work.rp + n) :
    s.withPayload n f = s.raise .truncatedStream := by
  rcases s.withPayload_cases n f with ⟨hpayload, -⟩ | ⟨-, hraise⟩
  · omega
  · exact hraise

end

/-- Settles O15: the payload is there and fits. -/
theorem litAppendsItsPayload : Obligations.LitAppendsItsPayload := by
  unfold Obligations.LitAppendsItsPayload
  intro len s hpayload hfits
  have hrun : s.runLit len = _ := State.withPayload_of_le hpayload (by simpa using hfits)
  exact ⟨_, congrArg Host.Outcome.next hrun, congrArg Host.Outcome.next hrun, rfl⟩

/-- Settles O16: the payload is one byte, and its repetition fits. -/
theorem iterRepeatsOneByte : Obligations.IterRepeatsOneByte := by
  unfold Obligations.IterRepeatsOneByte
  intro len s hpayload hfits
  have hrun : s.runIter len = _ := State.withPayload_of_le hpayload (by simpa using hfits)
  exact ⟨_, congrArg Host.Outcome.next hrun, congrArg Host.Outcome.next hrun, rfl⟩

theorem altBytes_length (len : Nat) (payload : List Byte) : (altBytes len payload).length = len := by
  simp [altBytes]

/-- The bytes of an alternation are the payload's two in turn (44_codec_b_commands.md R295). -/
theorem altBytes_getD {len j : Nat} (h : j < len) (payload : List Byte) :
    (altBytes len payload).getD j 0 = payload.getD (j % 2) 0 := by
  rcases Nat.mod_two_eq_zero_or_one j with hj | hj <;> simp [altBytes, h, hj]

/-- Settles O17: the payload is two bytes, and their alternation fits. -/
theorem altAlternatesTwoBytes : Obligations.AltAlternatesTwoBytes := by
  unfold Obligations.AltAlternatesTwoBytes
  intro len s hpayload hfits
  have hrun : s.runAlt len = _ := State.withPayload_of_le hpayload (by simpa [altBytes_length] using hfits)
  refine ⟨_, congrArg Host.Outcome.next hrun, rfl, altBytes_length _ _, fun j hj => ?_⟩
  have hlt : j % 2 < 2 := Nat.mod_lt j (by decide)
  rw [altBytes_getD hj]
  simp [hlt]

/-- Settles O18: no payload is read, and the zeros fit. -/
theorem zeroAppendsZeroBytes : Obligations.ZeroAppendsZeroBytes := by
  unfold Obligations.ZeroAppendsZeroBytes
  intro len s hfits
  have hrun : s.runZero len = _ := State.append_of_le (by simpa using hfits)
  exact ⟨_, congrArg Host.Outcome.next hrun, congrArg Host.Outcome.next hrun, rfl⟩

/-- Settles O25: the payload is read before anything else is checked. -/
theorem missingPayloadRaises : Obligations.MissingPayloadRaises := by
  unfold Obligations.MissingPayloadRaises
  intro s len
  refine ⟨fun hpos hmissing => ?lit, fun hmissing => ?iter, fun hmissing => ?alt⟩
  case lit =>
    have hrun : s.runLit len = _ := State.withPayload_of_lt hpos hmissing
    exact ⟨congrArg Host.Outcome.next hrun, congrArg Host.Outcome.next hrun⟩
  case iter =>
    have hrun : s.runIter len = _ := State.withPayload_of_lt le_rfl hmissing
    exact ⟨congrArg Host.Outcome.next hrun, congrArg Host.Outcome.next hrun⟩
  case alt =>
    have hrun : s.runAlt len = _ := State.withPayload_of_lt one_le_two hmissing
    exact ⟨congrArg Host.Outcome.next hrun, congrArg Host.Outcome.next hrun⟩

/-- Settles O26: END is completion with the output. -/
theorem endReportsTheOutput : Obligations.EndReportsTheOutput := by
  unfold Obligations.EndReportsTheOutput
  exact fun s hlegal hfits => ⟨_, rfl, State.complete_setWork_spec hlegal s.work 0 hfits⟩

/-! ### Copies -/

/-- The six copy headers wait for their offset (44_codec_b_commands.md R290). -/
theorem exec_copy_header {kind : Nat} (hlo : 4 ≤ kind) (hhi : kind ≤ 6) (len : Nat) (s : State) :
    exec (shortRow kind len) s = .next (s.awaitOffset (copyKindOf kind) len) ∧
      exec (longRow kind len) s = .next (s.awaitOffset (copyKindOf kind) len) := by
  interval_cases kind <;> exact ⟨rfl, rfl⟩

/-- Settles O19: each of the six headers by its kind. -/
theorem copyHeaderAwaitsItsOffset : Obligations.CopyHeaderAwaitsItsOffset := by
  unfold Obligations.CopyHeaderAwaitsItsOffset
  intro len s
  have hheader := fun kind hlo hhi => exec_copy_header (kind := kind) hlo hhi len s
  obtain ⟨hrep, hrepLong⟩ := hheader 4 (by decide) (by decide)
  obtain ⟨hflip, hflipLong⟩ := hheader 5 (by decide) (by decide)
  obtain ⟨hreverse, hreverseLong⟩ := hheader 6 (by decide) (by decide)
  exact ⟨hrep, hrepLong, hflip, hflipLong, hreverse, hreverseLong⟩

section
variable {s : State} {src : Nat}

/-- An offset that names a source in range, with room for the copy, runs the copy (44_codec_b_commands.md R303 steps 4 to
6). -/
theorem exec_offset_of_le {i : Instr} (hspace : i.space = .bOffset)
    (hsource : offsetSource i s.work.out.length = (src : Int)) (hsrc : src < s.work.out.length)
    (hroom : s.work.copy = .reverse → s.work.len ≤ src + 1)
    (hfits : s.work.out.length + s.work.len ≤ s.cfg.bufSize) :
    exec i s = .next (s.scanned s.work.rp (copyBytes s.work.copy s.work.len src s.work.out)) := by
  have hok : offsetOk s.work.copy (src : Int) s.work.len s.work.out.length = true := by
    rw [offsetOk_iff]
    refine ⟨by omega, by omega, fun hkind => ?_⟩
    have hlen := hroom hkind
    omega
  rw [exec_offset hspace, hsource]
  rcases s.runCopy_cases src with ⟨hbad, -⟩ | ⟨-, hlong, -⟩ | ⟨-, -, hcopy⟩
  · exact absurd (hok.symm.trans hbad) (by decide)
  · omega
  · exact congrArg Host.Outcome.next hcopy

/-- A source is named by its distance or by its position (44_codec_b_commands.md R273). -/
theorem exec_offRel_eq_offAbs (hsrc : src ≤ s.work.out.length) :
    exec (.offRel (s.work.out.length - src)) s = exec (.offAbs src) s := by
  have hsource : ((s.work.out.length : Int) - (s.work.out.length - src : Nat)) = (src : Int) := by omega
  change Host.Outcome.next (s.runCopy _) = .next (s.runCopy _)
  rw [hsource]

end

/-- The output before a forward copy stays. -/
theorem copyForward_getD_of_lt (f : Byte → Byte) (n src : Nat) (out : List Byte) {k : Nat} (hk : k < out.length) :
    (copyForward f n src out).getD k 0 = out.getD k 0 := by
  induction n generalizing src out with
  | zero => rfl
  | succ n ih =>
    rw [copyForward, ih _ _ (by rw [List.length_append]; omega)]
    exact List.getD_append _ _ _ _ hk

/-- A forward copy reads each byte from the output built so far, its own bytes included (44_codec_b_commands.md R300). -/
theorem copyForward_getD_add (f : Byte → Byte) (n src : Nat) (out : List Byte) (hsrc : src < out.length) {j : Nat}
    (hj : j < n) :
    (copyForward f n src out).getD (out.length + j) 0 = f ((copyForward f n src out).getD (src + j) 0) := by
  induction n generalizing src out j with
  | zero => omega
  | succ n ih =>
    have hlen : (out ++ [f (out.getD src 0)]).length = out.length + 1 := by simp
    rw [copyForward]
    cases j with
    | zero =>
      rw [copyForward_getD_of_lt _ _ _ _ (by omega), copyForward_getD_of_lt _ _ _ _ (by omega),
        Nat.add_zero, Nat.add_zero, List.getD_append _ _ _ src hsrc]
      simp
    | succ j =>
      have hnext := ih (src + 1) (out ++ [f (out.getD src 0)]) (by omega) (j := j) (by omega)
      rwa [hlen, Nat.add_right_comm, Nat.add_assoc, Nat.add_right_comm src, Nat.add_assoc src] at hnext

/-- A backward copy appends the bytes from its source down (44_codec_b_commands.md R299). -/
theorem copyBackward_eq (n src : Nat) (out : List Byte) (hsrc : src < out.length) (hroom : n ≤ src + 1) :
    copyBackward n src out = out ++ (List.range n).map fun j => out.getD (src - j) 0 := by
  induction n generalizing src out with
  | zero => simp [copyBackward]
  | succ n ih =>
    have hnext : copyBackward n (src - 1) (out ++ [out.getD src 0]) =
        out ++ [out.getD src 0] ++ (List.range n).map fun j => out.getD (src - (j + 1)) 0 := by
      rcases Nat.eq_zero_or_pos n with rfl | hpos
      · simp [copyBackward]
      · rw [ih (src - 1) _ (by rw [List.length_append]; omega) (by omega)]
        refine congrArg _ (List.map_congr_left fun j _ => ?_)
        rw [List.getD_append _ _ _ _ (by omega), Nat.sub_sub, Nat.add_comm 1]
    rw [copyBackward, hnext, List.range_succ_eq_map, List.map_cons, List.map_map, List.append_assoc]
    rfl

/-- Settles O20: the copy runs, and it is a forward copy of the bytes. -/
theorem repeatCopiesForward : Obligations.RepeatCopiesForward := by
  unfold Obligations.RepeatCopiesForward
  intro s src hkind hsrc hfits
  have hexec := exec_offset_of_le (i := .offAbs src) rfl rfl hsrc (by simp [hkind]) hfits
  rw [hkind] at hexec
  exact ⟨_, hexec, exec_offRel_eq_offAbs hsrc.le, copyForward_length _ _ _ _,
    fun k hk => copyForward_getD_of_lt _ _ _ _ hk, fun j hj => copyForward_getD_add id _ _ _ hsrc hj⟩

/-- Settles O21: the copy runs, and it is a forward copy of the reversed bytes. -/
theorem flipCopiesReversedBits : Obligations.FlipCopiesReversedBits := by
  unfold Obligations.FlipCopiesReversedBits
  intro s src hkind hsrc hfits
  have hexec := exec_offset_of_le (i := .offAbs src) rfl rfl hsrc (by simp [hkind]) hfits
  rw [hkind, copyBytes] at hexec
  refine ⟨_, hexec, exec_offRel_eq_offAbs hsrc.le, copyForward_length _ _ _ _,
    fun k hk => copyForward_getD_of_lt _ _ _ _ hk, fun j i hj hi => ?_⟩
  rw [copyForward_getD_add rev8 _ _ _ hsrc hj, rev8_getLsbD _ hi]

/-- Settles O22: the copy runs, and it is a backward copy. -/
theorem reverseCopiesBackward : Obligations.ReverseCopiesBackward := by
  unfold Obligations.ReverseCopiesBackward
  intro s src hkind hsrc hroom hfits
  have hexec := exec_offset_of_le (i := .offAbs src) rfl rfl hsrc (fun _ => hroom) hfits
  rw [hkind, copyBytes, copyBackward_eq _ _ _ hsrc hroom] at hexec
  refine ⟨_, hexec, exec_offRel_eq_offAbs hsrc.le, by simp, fun j hj => ?_⟩
  simp [hj]

/-! ### A copy command in the stream -/

/-- Two bytes of the stream (44_codec_b_commands.md R291). -/
theorem State.windowB_eq {s : State} (h : s.work.rp < s.lInLen.toNat) :
    s.windowB = bitsOfByte (s.readIn s.work.rp) ++ bitsOfBytes (s.inBytes (s.work.rp + 1) 1) := by
  rw [State.windowB, State.inBytes, if_pos h, bitsOfBytes_cons]

/-- A relative offset is one byte (44_codec_b_commands.md R273). -/
theorem decodeOffset_relative {b : Byte} {d : Nat} (hd : d ≤ 127) (hb : b.toNat = 0x80 + d) (bits : List Bool) :
    decodeOffset (bitsOfByte b ++ bits) = .ok (.offRel d, bits) := by
  have hbyte : bitsOfByte b = encode (.offRel d) := by
    rw [bitsOfByte, hb, show (8 : Nat) = 1 + 7 from rfl, bitsOfNat_add, show (0x80 + d) / 2 ^ 7 = 1 by omega,
      show (0x80 + d) % 2 ^ 7 = d by omega]
    rfl
  rw [hbyte]
  exact decodeOffset_encode_offRel hd bits

section
variable {s : State} {i : Instr} {sp : Space}

/-- A row of one byte at the read index (44_codec_b_commands.md R291). -/
theorem step_oneByteRow (hevents : s.events = []) (hsp : s.FetchesB sp) (hrp : s.work.rp < s.lInLen.toNat)
    (hdec : ∀ bits, decode s.cfg sp (bitsOfByte (s.readIn s.work.rp) ++ bits) = .ok (i, bits)) :
    step s = exec i (s.setWork (s.work.skipTo (s.work.rp + 1))) := by
  have hwindow := State.windowB_eq hrp
  have hdec := hdec (bitsOfBytes (s.inBytes (s.work.rp + 1) 1))
  rw [← hwindow] at hdec
  rw [step_of_no_events hevents, engineStep_fetchB hsp hdec, hwindow, List.length_append, Nat.add_sub_cancel,
    bitsOfByte_length]

/-- The engine awaits the offset of a copy. -/
def State.awaiting (s : State) (rp : Nat) (kind : CopyKind) (len : Nat) : State :=
  { s with phase := .bPayload, work := { s.work with rp := rp, copy := kind, len := len } }

/-- The move on a short copy header (44_codec_b_commands.md R290). -/
theorem step_copyHeader {kind len : Nat} (hevents : s.events = []) (hphase : s.phase = .bScan)
    (hrp : s.work.rp < s.lInLen.toNat) (hlo : 4 ≤ kind) (hhi : kind ≤ 6) (hlenLo : 1 ≤ len) (hlenHi : len ≤ 32)
    (hheader : (s.readIn s.work.rp).toNat = 32 * kind + (len - 1)) :
    step s = .next (s.awaiting (s.work.rp + 1) (copyKindOf kind) len) := by
  rw [step_oneByteRow (i := shortRow kind len) hevents (.inl ⟨hphase, rfl⟩) hrp fun bits => ?_]
  · exact (exec_copy_header hlo hhi len _).1
  · have hdec := decodeHeader_short bits (b := s.readIn s.work.rp) (by omega)
    rwa [hheader, show (32 * kind + (len - 1)) / 32 = kind by omega,
      show (32 * kind + (len - 1)) % 32 + 1 = len by omega] at hdec

/-- The move on a relative offset, where the copy's checks pass (44_codec_b_commands.md R273, R297 to R299). -/
theorem step_relativeOffset {d : Nat} (hevents : s.events = []) (hphase : s.phase = .bPayload)
    (hrp : s.work.rp < s.lInLen.toNat) (hdLo : 1 ≤ d) (hdHi : d ≤ 127)
    (hoffset : (s.readIn s.work.rp).toNat = 0x80 + d) (hd : d ≤ s.work.out.length)
    (hreverse : s.work.copy = .reverse → s.work.len ≤ s.work.out.length - d + 1)
    (hfits : s.work.out.length + s.work.len ≤ s.cfg.bufSize) :
    step s = .next (s.scanned (s.work.rp + 1)
      (copyBytes s.work.copy s.work.len (s.work.out.length - d) s.work.out)) := by
  have hsource : offsetSource (.offRel d) s.work.out.length = ((s.work.out.length - d : Nat) : Int) := by
    simp only [offsetSource]
    omega
  rw [step_oneByteRow hevents (.inr ⟨hphase, rfl⟩) hrp fun bits => decodeOffset_relative hdHi hoffset bits]
  exact exec_offset_of_le (s := s.setWork (s.work.skipTo (s.work.rp + 1))) rfl hsource (Nat.sub_lt (by omega) hdLo)
    hreverse hfits

end

/-- One move on in a run. -/
theorem core_run_succ {s t : State} {k : Nat} (h : step s = .next t) :
    Sys2Proof.core.run (k + 1) s = Sys2Proof.core.run k t := by
  have hcore : Sys2Proof.core.step s = .next t := h
  simp only [Host.Core.run, hcore]

/-- Settles O27: the header is one move and the offset is the next; both are rows of one byte. -/
theorem copyCommandRunsFromTheStream : Obligations.CopyCommandRunsFromTheStream := by
  unfold Obligations.CopyCommandRunsFromTheStream
  intro s kind len d hevents hphase hrp hlo hhi hlenLo hlenHi hdLo hdHi hheader hoffset hd hreverse hfits
  have hkind : copyKindOf kind = .reverse → kind = 6 := by
    intro h
    interval_cases kind
    · cases h
    · cases h
    · rfl
  have hstart := step_copyHeader hevents hphase (by omega) hlo hhi hlenLo hlenHi hheader
  have hcopy := step_relativeOffset (s := s.awaiting (s.work.rp + 1) (copyKindOf kind) len) hevents rfl hrp hdLo hdHi
    hoffset hd (fun h => hreverse (hkind h)) hfits
  exact (core_run_succ hstart).trans (core_run_succ hcopy)

end Sys2Proof.Machine
end

section
/-! SUPPORT. The Codec A tokens (43_codec_a_rle.md R236, R240, R250), the inferred width (40_operations.md R146), the start of
the decompressors and completion (40_operations.md R134, R150, R160). -/
namespace Sys2Proof.Machine

/-! ### Tokens -/

/-- Settles O30: the two checks in order, and a square size that passes both. -/
theorem headerTokenChecksTheSize : Obligations.HeaderTokenChecksTheSize := by
  unfold Obligations.HeaderTokenChecksTheSize
  refine fun s w h => ⟨fun hne => ?unequal, rfl, fun hw => ?square⟩
  case unequal => exact congrArg Host.Outcome.next (if_pos hne)
  case square =>
    have hnonzero : w ≠ 0 := Nat.one_le_iff_ne_zero.1 hw
    exact congrArg Host.Outcome.next ((if_neg (not_not.2 rfl)).trans (if_neg hnonzero))

/-- Settles O31: each of the seven tokens sets what its meaning says. -/
theorem streamMarkersSetTheDecoder : Obligations.StreamMarkersSetTheDecoder := by
  unfold Obligations.StreamMarkersSetTheDecoder
  exact fun s order => ⟨rfl, rfl, rfl, rfl, rfl, rfl, rfl⟩

/-- The rows that extend a plane, with the pairs they add (43_codec_a_rle.md R236). -/
def AddsPairs (i : Instr) (pairs : List Pair) : Prop :=
  (∃ p, i = .aP p ∧ pairs = [p]) ∨ ∃ w v, i = .aRun w v ∧ pairs = List.replicate (2 ^ (w + 1) - 1 + v) 0

/-- A row that extends a plane within its size takes the pairs (43_codec_a_rle.md R236). -/
theorem exec_addsPairs {s : State} {i : Instr} {pairs : List Pair} (h : AddsPairs i pairs)
    (hle : (s.work.seq ++ pairs).length ≤ s.planeSize) :
    exec i s = .next (s.produce (s.work.seq ++ pairs) .data) := by
  obtain ⟨p, rfl, rfl⟩ | ⟨w, v, rfl, rfl⟩ := h
  · rfl
  · rw [List.length_append, List.length_replicate] at hle
    exact congrArg Host.Outcome.next (if_neg (not_lt.2 hle))

/-- Settles O32: within the plane the pairs are taken, and the plane ends when it is full; a run past its end fails. -/
theorem packetsExtendThePlane : Obligations.PacketsExtendThePlane := by
  unfold Obligations.PacketsExtendThePlane
  intro s pairs i hadds seq size
  have hproduce := s.produce_cases seq .data
  refine ⟨fun hlt => ?goesOn, fun hfull hfirst => ?first, fun hfull hsecond => ?second, fun hover hrun => ?overflow⟩
  case goesOn =>
    rw [exec_addsPairs hadds hlt.le]
    rcases hproduce with ⟨h, -⟩ | ⟨h, -⟩ | ⟨-, h⟩
    · exact absurd h hlt.ne
    · exact absurd h hlt.ne
    · exact congrArg Host.Outcome.next h
  case first =>
    rw [exec_addsPairs hadds hfull.le]
    rcases hproduce with ⟨-, h, -⟩ | ⟨-, -, h⟩ | ⟨h, -⟩
    · cases hfirst.symm.trans h
    · exact congrArg Host.Outcome.next h
    · exact absurd hfull h
  case second =>
    rw [exec_addsPairs hadds hfull.le]
    rcases hproduce with ⟨-, -, h⟩ | ⟨-, h, -⟩ | ⟨h, -⟩
    · exact congrArg Host.Outcome.next h
    · cases hsecond.symm.trans h
    · exact absurd hfull h
  case overflow =>
    obtain ⟨w, v, rfl⟩ := hrun
    obtain ⟨p, hp, -⟩ | ⟨w', v', hw, hpairs⟩ := hadds
    · cases hp
    · cases hw
      have hlong : s.planeSize < s.work.seq.length + (2 ^ (w + 1) - 1 + v) := by
        rw [← List.length_replicate (n := 2 ^ (w + 1) - 1 + v) (a := (0 : Pair)), ← hpairs, ← List.length_append]
        exact hover
      exact congrArg Host.Outcome.next (if_pos hlong)

/-- Settles O33: the padding completes with the rebuilt data, which every legal buffer holds. -/
theorem paddingEndsTheDecode : Obligations.PaddingEndsTheDecode := by
  unfold Obligations.PaddingEndsTheDecode
  intro s n hlegal hwidth
  have hfits := (reconstruct_data_length s.work.firstSeq s.work.seq s.work.width s.work.order s.work.mode).trans_le
    (dataLen_le_bufSize hlegal hwidth)
  exact ⟨_, rfl, State.complete_setWork_spec hlegal _ _ hfits⟩

/-! ### The inferred width -/

/-- Everything `InferWidth` can answer (40_operations.md R146). -/
theorem inferWidth_cases (n : Nat) :
    (1 ≤ inferWidth n ∧ Config.dataLen (inferWidth n) = n) ∨
      (inferWidth n = 0 ∧ ∀ w, 1 ≤ w → w ≤ 15 → Config.dataLen w ≠ n) := by
  unfold inferWidth
  cases hfind : (List.range 15).find? fun k => Config.dataLen (k + 1) = n with
  | some k =>
    have hk := List.find?_some hfind
    exact .inl ⟨Nat.succ_pos k, of_decide_eq_true hk⟩
  | none =>
    refine .inr ⟨rfl, fun w hlo hhi hlen => ?_⟩
    have hnone := List.find?_eq_none.1 hfind (w - 1) (List.mem_range.2 (by omega))
    rw [Nat.sub_add_cancel hlo] at hnone
    exact hnone (decide_eq_true hlen)

/-- Widths of one data length are equal (00_scope.md R9). -/
theorem dataLen_injective {w w' : Nat} (h : Config.dataLen w = Config.dataLen w') : w = w' :=
  Nat.mul_self_inj.1 (Nat.mul_left_cancel (by decide) h)

/-- Settles O36: what is found fits, widths that fit are equal, and where none fits 0 is taken. -/
theorem inferredWidthIsTheOnlyOne : Obligations.InferredWidthIsTheOnlyOne := by
  unfold Obligations.InferredWidthIsTheOnlyOne
  refine ⟨fun n w hlo hhi => ⟨fun hw => ?fits, fun hlen => ?only⟩, fun n hnone => ?none,
    fun s hfits hwidth hzero => exec_aCompressAuto_error hfits (autoWidth_error (.inl ?_))⟩
  case fits =>
    subst hw
    obtain ⟨-, hlen⟩ | ⟨hzero, -⟩ := inferWidth_cases n
    · exact hlen
    · omega
  case only =>
    obtain ⟨-, hinferred⟩ | ⟨-, hnone⟩ := inferWidth_cases n
    · exact dataLen_injective (hinferred.trans hlen.symm)
    · exact absurd hlen (hnone w hlo hhi)
  case none =>
    obtain ⟨hpos, hlen⟩ | ⟨hzero, -⟩ := inferWidth_cases n
    · exact absurd hlen (hnone _ hpos (inferWidth_le n))
    · exact hzero
  · rw [takenWidth, if_pos hwidth, hzero]

/-! ### The start of the decompressors -/

/-- Settles O37: an input that fits lets both start from fresh working registers. -/
theorem decompressorsStartTheirStream : Obligations.DecompressorsStartTheirStream := by
  unfold Obligations.DecompressorsStartTheirStream
  intro s hfits
  have ha : exec .aDecompress s = .next (s.beginDecode .aHdr) :=
    congrArg Host.Outcome.next (State.withInput_of_le hfits _)
  have hb : exec .bDecompress s = .next (s.beginDecode .bScan) :=
    congrArg Host.Outcome.next (State.withInput_of_le hfits _)
  exact ⟨_, _, ha, hb, rfl, rfl, rfl, rfl, rfl, rfl⟩

/-! ### Completion -/

/-- Past the result OUT_BUF reads as the free bytes of its new draw (40_operations.md R134, log 1). -/
theorem State.readOut_complete_of_le {s : State} {bytes : List Byte} (info : BitVec 7)
    (hfits : bytes.length ≤ s.cfg.bufSize) {a : Nat} (ha : bytes.length ≤ a) :
    (s.complete bytes info).readOut a = Config.freeByte s.draws a := by
  rcases s.complete_cases bytes info with ⟨-, h⟩ | ⟨hlong, -⟩
  · simp [h, State.readOut, Memory.get_ofBytes, ha]
  · omega

/-- `irq` after a completion is IRQ_EN (10_state.md R41). -/
theorem State.irq_of_done {s : State} (h : s.done = true) : s.irq = s.irqEn := by
  rw [State.irq, h, Bool.true_and]

/-- STATUS.BUSY is 0 in IDLE (40_operations.md R130). -/
theorem State.busy_of_idle {s : State} (h : s.phase = .idle) : s.busy = false := by
  rw [State.busy, h]
  rfl

/-- Settles O41: a result that fits, one that is too long, and error entry. -/
theorem completionWritesItsFields : Obligations.CompletionWritesItsFields := by
  unfold Obligations.CompletionWritesItsFields
  refine fun s bytes info e => ⟨fun hlegal hfits => ⟨_, rfl, State.complete_reports hlegal info hfits,
      State.busy_of_idle (State.complete_phase _ _ _), State.complete_done _ _ _, ?irq,
      fun a ha => State.readOut_complete_of_le info hfits ha, ?frame⟩, fun hlong => ?long,
    ⟨_, rfl, s.raise_reportsError e, rfl, rfl, s.irq_raise e, fun _ => rfl, rfl⟩⟩
  case irq =>
    rw [State.irq_of_done (State.complete_done _ _ _)]
    rcases s.complete_cases bytes info with ⟨-, h⟩ | ⟨-, h⟩
    · rw [h]
    · rw [h, State.raise_irqEn]
  case frame =>
    rcases s.complete_cases bytes info with ⟨-, h⟩ | ⟨hlong, -⟩
    · rw [h]
    · omega
  case long =>
    rcases s.complete_cases bytes info with ⟨hle, -⟩ | ⟨-, h⟩
    · omega
    · exact h

end Sys2Proof.Machine
end

section
/-! SUPPORT. Every started operation completes (70_reset_and_hazards.md R420): each move of a busy engine completes the
operation or takes bits of its input. -/
namespace Sys2Proof.Machine

/-! ### Everything a fetch can answer -/

/-- A row's encoding has the length 30_encoding.md R111 gives it. -/
theorem encode_length (i : Instr) : (encode i).length = rowBits i := by
  cases i with
  | aRun w v => exact Laws.EncodeLength.aRun w v
  | aPad n => exact Laws.EncodeLength.aPad n
  | _ => rfl

/-- Every row but the padding takes bits (30_encoding.md R111). -/
theorem rowBits_pos {i : Instr} (h : i.space ≠ .aPad) : 1 ≤ rowBits i := by
  cases i with
  | aRun w v => exact Nat.le_add_left 1 (2 * w + 1)
  | aPad n => exact absurd rfl h
  | _ => exact Nat.succ_pos _

/-- A Codec B row takes one byte or two (30_encoding.md R111). -/
theorem rowBits_codecB {i : Instr} (h : i.space = .bHeader ∨ i.space = .bOffset) : rowBits i = 8 ∨ rowBits i = 16 := by
  cases i with
  | lit | iter | alt | zero | rep | flip | reverse | longReservedFC | longReservedFD | longReservedFE | stop
  | offRel => exact .inl rfl
  | litLong | iterLong | altLong | zeroLong | repLong | flipLong | reverseLong | offAbs => exact .inr rfl
  | _ => rcases h with h | h <;> cases h

/-- What the engine can fetch: the operation code, a Codec A token with the cursor past it in the stream, the padding, or a
Codec B row with the read index past it in the stream. -/
inductive Fetches (s : State) : Instr → Work → Prop
  | op {i : Instr} (hphase : s.phase = .dispatch) (hspace : i.space = .op) : Fetches s i s.work
  | token {sp : Space} {i : Instr} {rc : Cursor} (hsp : s.FetchesA sp) (hspace : i.space = sp) (hwf : i.wf s.cfg)
      (hrc : s.work.rc.bit ≤ 7 → rc.bit ≤ 7 ∧ (s.unread rc).length < (s.unread s.work.rc).length) :
      Fetches s i (s.work.moveTo rc)
  | padding {n : Nat} {rc : Cursor} (hphase : s.phase = .aPad) (hrc : s.work.rc.bit ≤ 7 → rc.bit ≤ 7) :
      Fetches s (.aPad n) (s.work.moveTo rc)
  | row {sp : Space} {i : Instr} {rp : Nat} (hsp : s.FetchesB sp) (hspace : i.space = sp) (hwf : i.wf s.cfg)
      (hlo : s.work.rp < rp) (hhi : rp ≤ s.lInLen.toNat) : Fetches s i (s.work.skipTo rp)

section
variable {s : State} {sp : Space} {i : Instr} {rest : List Bool}

theorem State.FetchesA.ne_aPad (h : s.FetchesA sp) : sp ≠ .aPad := by
  rintro rfl
  rcases h with ⟨-, h⟩ | ⟨-, h⟩ | ⟨-, h⟩ | ⟨-, h⟩ | ⟨-, h⟩
  any_goals cases h
  cases hpacket : s.work.packet <;> rw [hpacket] at h <;> cases h

theorem State.FetchesB.space_eq (h : s.FetchesB sp) : sp = .bHeader ∨ sp = .bOffset :=
  h.imp And.right And.right

/-- A token that decodes has taken bits of the stream (30_encoding.md R111). -/
theorem fetches_token (hsp : s.FetchesA sp) (hdec : decode s.cfg sp s.windowA = .ok (i, rest)) :
    Fetches s i (s.work.moveTo (s.work.rc.advance (s.windowA.length - rest.length))) := by
  obtain ⟨hspace, hwf, hbits⟩ := spells_of_decode hsp.ne_aPad hdec
  have hpos := rowBits_pos (i := i) (hspace ▸ hsp.ne_aPad)
  rw [← encode_length] at hpos
  refine .token hsp hspace hwf fun hbit => ⟨Cursor.advance_bit hbit _, ?_⟩
  have hwindow : s.windowA.length ≤ (s.unread s.work.rc).length := by
    rw [State.windowA, State.peekBits_eq _ _ hbit, List.length_take]
    exact Nat.min_le_right _ _
  rw [State.unread_advance _ hbit, List.length_drop]
  rw [hbits, List.length_append] at hwindow ⊢
  omega

/-- A Codec B row that decodes has taken bytes of the stream (30_encoding.md R111). -/
theorem fetches_row (hsp : s.FetchesB sp) (hdec : decode s.cfg sp s.windowB = .ok (i, rest)) :
    Fetches s i (s.work.skipTo (s.work.rp + (s.windowB.length - rest.length) / 8)) := by
  have hne : sp ≠ .aPad := by
    rintro rfl
    exact hsp.space_eq.elim nofun nofun
  obtain ⟨hspace, hwf, hbits⟩ := spells_of_decode hne hdec
  have hbytes := rowBits_codecB (i := i) (hspace ▸ hsp.space_eq)
  have hwindow : s.windowB.length = 8 * min 2 (s.lInLen.toNat - s.work.rp) := by
    rw [State.windowB, bitsOfBytes_length, State.inBytes_length]
  have hlength := congrArg List.length hbits
  rw [List.length_append, encode_length] at hlength
  exact .row hsp hspace hwf (by omega) (by omega)

end

/-- The engine's phases by what it fetches in them (log 7). -/
theorem State.phase_cases (s : State) :
    s.phase = .idle ∨ s.phase = .dispatch ∨ s.phase = .aPad ∨ (∃ sp, s.FetchesA sp) ∨ ∃ sp, s.FetchesB sp := by
  unfold State.FetchesA State.FetchesB
  cases s.phase <;> simp

/-- Everything the engine's move can do: nothing in IDLE, an error of the fetch, or the row that it fetches. -/
theorem engineStep_cases (s : State) :
    (s.phase = .idle ∧ engineStep s = .next s) ∨ (∃ e, engineStep s = .next (s.raise e)) ∨
      ∃ i w, Fetches s i w ∧ engineStep s = exec i (s.setWork w) := by
  obtain hphase | hphase | hphase | ⟨sp, hsp⟩ | ⟨sp, hsp⟩ := s.phase_cases
  · exact .inl ⟨hphase, engineStep_idle hphase⟩
  · refine .inr (.inr ⟨_, _, .op hphase (decodeOp_space s.lOp.toNat), ?_⟩)
    rw [engineStep, State.fetch, hphase]
    rfl
  · exact .inr (.inr ⟨_, _, .padding hphase fun hbit => Cursor.advance_bit hbit _, engineStep_fetchPad hphase⟩)
  · cases hdec : decode s.cfg sp s.windowA with
    | error e => exact .inr (.inl ⟨e, engineStep_fetchA_error hsp hdec⟩)
    | ok x => exact .inr (.inr ⟨x.1, _, fetches_token hsp hdec, engineStep_fetchA hsp hdec⟩)
  · cases hdec : decode s.cfg sp s.windowB with
    | error e => exact .inr (.inl ⟨e, engineStep_fetchB_error hsp hdec⟩)
    | ok x => exact .inr (.inr ⟨x.1, _, fetches_row hsp hdec, engineStep_fetchB hsp hdec⟩)

/-! ### Termination -/

/-- A bound on the moves left: the bits or bytes of the stream that are left, and one move for its end (log 7). -/
def State.movesLeft (s : State) : Nat :=
  match s.phase with
  | .idle => 0
  | .dispatch => 8 * s.lInLen.toNat + 2
  | .bScan | .bPayload => s.lInLen.toNat - s.work.rp + 1
  | .aHdr | .aOrd | .aStart | .aPacket | .aMode | .aPad => (s.unread s.work.rc).length + 1

/-- A busy engine alone, at the start of an operation or with its bit index in range. -/
structure State.Running (s : State) : Prop where
  busy : s.phase ≠ .idle
  alone : s.events = []
  cursor : s.phase = .dispatch ∨ s.work.rc.bit ≤ 7

/-- The operation is over (40_operations.md R134). -/
def State.Completed (s : State) : Prop :=
  s.phase = .idle ∧ s.done = true

section
variable {s : State}

theorem State.unread_length_le (s : State) (c : Cursor) : (s.unread c).length ≤ 8 * s.lInLen.toNat := by
  rw [State.unread, List.length_drop, bitsOfBytes_length, State.inputBytes_length]
  exact Nat.sub_le _ _

theorem State.movesLeft_codecA (h : s.phase = .aHdr ∨ s.phase.inStreamA = true) :
    s.movesLeft = (s.unread s.work.rc).length + 1 := by
  unfold State.movesLeft
  cases hphase : s.phase with
  | aHdr | aOrd | aStart | aPacket | aMode | aPad => rfl
  | idle | dispatch | bScan | bPayload =>
    rw [hphase] at h
    rcases h with h | h <;> cases h

theorem State.movesLeft_codecB (h : s.phase.inStreamB = true) :
    s.movesLeft = s.lInLen.toNat - s.work.rp + 1 := by
  unfold State.movesLeft
  cases hphase : s.phase with
  | bScan | bPayload => rfl
  | idle | dispatch | aHdr | aOrd | aStart | aPacket | aMode | aPad =>
    rw [hphase] at h
    cases h

theorem State.FetchesA.phase_eq {sp : Space} (h : s.FetchesA sp) : s.phase = .aHdr ∨ s.phase.inStreamA = true := by
  rcases h with ⟨h, -⟩ | ⟨h, -⟩ | ⟨h, -⟩ | ⟨h, -⟩ | ⟨h, -⟩ <;> rw [h]
  · exact .inl rfl
  all_goals exact .inr rfl

theorem State.FetchesB.phase_eq {sp : Space} (h : s.FetchesB sp) : s.phase.inStreamB = true := by
  rcases h with ⟨h, -⟩ | ⟨h, -⟩ <;> rw [h] <;> rfl

/-- A token that goes on leaves the cursor and stays in the stream (log 7). -/
theorem State.FetchesA.goesOn {s' : State} {sp : Space} {w : Work} {p : Phase} (hsp : s.FetchesA sp)
    (h : GoesOn s' w p sp) : w.rc = s'.work.rc ∧ p.inStreamA = true := by
  rcases hsp with ⟨-, rfl⟩ | ⟨-, rfl⟩ | ⟨-, rfl⟩ | ⟨-, rfl⟩ | ⟨-, rfl⟩
  any_goals exact h
  cases hpacket : s.work.packet <;> rw [hpacket] at h <;> exact h

/-- A Codec B row that goes on does not move the read index back and stays in the stream (log 7). -/
theorem State.FetchesB.goesOn {s' : State} {sp : Space} {w : Work} {p : Phase} (hsp : s.FetchesB sp)
    (h : GoesOn s' w p sp) : w.rc = s'.work.rc ∧ s'.work.rp ≤ w.rp ∧ p.inStreamB = true := by
  rcases hsp with ⟨-, rfl⟩ | ⟨-, rfl⟩ <;> exact h

/-- A row that goes on takes moves away from what is left (70_reset_and_hazards.md R420). -/
theorem movesLeft_of_goesOn (hs : s.Running) {i : Instr} {w w' : Work} {p : Phase} (hfetch : Fetches s i w)
    (h : GoesOn (s.setWork w) w' p i.space) :
    w'.rc.bit ≤ 7 ∧ ((s.setWork w').goto p).movesLeft < s.movesLeft := by
  obtain ⟨-, -, hcursor⟩ := hs
  cases hfetch with
  | op hphase hspace =>
    rw [hspace] at h
    obtain ⟨-, rfl, hp⟩ := h
    have hleft : s.movesLeft = 8 * s.lInLen.toNat + 2 := by rw [State.movesLeft, hphase]
    refine ⟨le_rfl, ?_⟩
    rw [hleft]
    rcases hp with rfl | rfl
    · exact Nat.add_lt_add_of_le_of_lt (s.unread_length_le _) (by decide)
    · exact Nat.add_lt_add_of_le_of_lt ((Nat.sub_le _ _).trans (Nat.le_mul_of_pos_left _ (by decide))) (by decide)
  | @token sp i rc hsp hspace hwf hrc =>
    have hphase := hsp.phase_eq
    have hbit : s.work.rc.bit ≤ 7 := hcursor.resolve_left fun h => by rw [h] at hphase; rcases hphase with h | h <;> cases h
    obtain ⟨hbit, hless⟩ := hrc hbit
    obtain ⟨hw, hp⟩ : w'.rc = rc ∧ p.inStreamA = true := hsp.goesOn (hspace ▸ h)
    subst hw
    rw [s.movesLeft_codecA hphase, State.movesLeft_codecA (s := (s.setWork w').goto p) (.inr hp)]
    exact ⟨hbit, Nat.add_lt_add_right hless 1⟩
  | padding _ _ => exact h.elim
  | @row sp i rp hsp hspace hwf hlo hhi =>
    have hphase := hsp.phase_eq
    have hbit : s.work.rc.bit ≤ 7 := hcursor.resolve_left fun h => by rw [h] at hphase; cases hphase
    obtain ⟨hw, hrp, hp⟩ : w'.rc = s.work.rc ∧ rp ≤ w'.rp ∧ p.inStreamB = true := hsp.goesOn (hspace ▸ h)
    rw [s.movesLeft_codecB hphase, State.movesLeft_codecB (s := (s.setWork w').goto p) hp]
    have hless : s.lInLen.toNat - w'.rp < s.lInLen.toNat - s.work.rp := by omega
    exact ⟨hw ▸ hbit, Nat.add_lt_add_right hless 1⟩

/-- A move of a busy engine completes the operation, or fewer moves are left (70_reset_and_hazards.md R420). -/
theorem step_progress (hs : s.Running) :
    ∃ t, step s = .next t ∧ (t.Completed ∨ (t.Running ∧ t.movesLeft < s.movesLeft)) := by
  rw [step_of_no_events hs.alone]
  obtain ⟨hidle, -⟩ | ⟨e, hstep⟩ | ⟨i, w, hfetch, hstep⟩ := engineStep_cases s
  · exact absurd hidle hs.busy
  · exact ⟨_, hstep, .inl ⟨rfl, rfl⟩⟩
  · obtain ⟨t, hexec, hresult⟩ := exec_result (s.setWork w) i
    refine ⟨t, hstep.trans hexec, ?_⟩
    cases hresult with
    | fails _ => exact .inl ⟨rfl, rfl⟩
    | completes _ _ => exact .inl ⟨State.complete_phase _ _ _, State.complete_done _ _ _⟩
    | goesOn h =>
      obtain ⟨hbit, hless⟩ := movesLeft_of_goesOn hs hfetch h
      exact .inr ⟨⟨goesOn_ne_idle h, hs.alone, .inr hbit⟩, hless⟩

theorem State.Running.movesLeft_pos (hs : s.Running) : 0 < s.movesLeft := by
  have hbusy := hs.busy
  unfold State.movesLeft
  cases hphase : s.phase with
  | idle => exact absurd hphase hbusy
  | _ => exact Nat.succ_pos _

/-- A busy engine that is left alone completes within the moves that are left. -/
theorem completes_of_running {n : Nat} (hs : s.Running) (hn : s.movesLeft ≤ n) :
    ∃ k t, k ≤ n ∧ CompletesTo s k t := by
  induction n generalizing s with
  | zero =>
    have hpos := hs.movesLeft_pos
    omega
  | succ n ih =>
    obtain ⟨t, hstep, ⟨hidle, hdone⟩ | ⟨hrunning, hless⟩⟩ := step_progress hs
    · exact ⟨1, t, by omega, core_run_succ hstep, hidle, hdone⟩
    · obtain ⟨k, u, hk, hrun, hcompleted⟩ := ih hrunning (by omega)
      exact ⟨k + 1, u, by omega, (core_run_succ hstep).trans hrun, hcompleted⟩

end

/-- Settles O50: at the start of an operation the moves left are bounded by the bits of the input. -/
theorem everyOperationCompletes : Obligations.EveryOperationCompletes := by
  unfold Obligations.EveryOperationCompletes
  rintro s ⟨hphase, hevents, -⟩
  have hleft : s.movesLeft = 8 * s.lInLen.toNat + 2 := by rw [State.movesLeft, hphase]
  exact completes_of_running ⟨by simp [hphase], hevents, .inl hphase⟩ (by omega)

end Sys2Proof.Machine
end

section
/-! SUPPORT. The host's side: everything a host access can do (10_state.md R30, 20_memory.md R64, R66), reads and writes of
registers and buffers, and the reset input (70_reset_and_hazards.md R400). -/
namespace Sys2Proof.Machine

/-! ### Everything a host access can do -/

/-- An access is a write of CTRL (10_state.md R21). -/
theorem regAt_eq_ctrl {off : Nat} (h : regAt off = some .ctrl) : off = 0 := by
  unfold regAt at h
  split at h
  any_goals cases h
  rfl

theorem target_eq_ctrl {P : Params} {off : BitVec 18} {size : Nat} (h : target P off.toNat size = .reg .ctrl) :
    off = 0 ∧ size = 4 := by
  unfold target at h
  split_ifs at h with hsize hin hout
  cases hreg : regAt off.toNat with
  | none => simp [hreg] at h
  | some r =>
    simp only [hreg, Target.reg.injEq] at h
    subst h
    exact ⟨BitVec.eq_of_toNat_eq (regAt_eq_ctrl hreg), hsize⟩

theorem target_eq_inByte {P : Params} {off size a : Nat} (h : target P off size = .inByte a) : a < P.bufSize := by
  unfold target at h
  split_ifs at h with hsize hbyte hin hout
  · split at h <;> cases h
  · obtain rfl := Target.inByte.inj h
    obtain ⟨hlo, hhi⟩ := hin
    exact Nat.sub_lt_left_of_lt_add hlo hhi

/-- Everything a host access can do. It reads, which at most takes a draw; it is refused with PROTO; it writes CTRL; or, while
IDLE, it writes an operand register or a byte of IN_BUF. -/
inductive HostResult (s : State) : HostAccess → State → Prop
  | reads {a : HostAccess} (v : Word) {n : Nat} (hdraws : s.draws ≤ n) : HostResult s a { s with rdata := v, draws := n }
  | rejects {a : HostAccess} (v : Word) : HostResult s a { s with proto := true, rdata := v }
  | ctrl (v : Word) : HostResult s (.write 0 4 v) (s.writeCtrl v)
  | operands {a : HostAccess} (hidle : s.phase = .idle) (op : BitVec 3) (param : BitVec 7) (align : BitVec 16)
      (inLen : BitVec 17) : HostResult s a { s with op := op, param := param, align := align, inLen := inLen }
  | inBuf {a : HostAccess} (hidle : s.phase = .idle) {i : Nat} (hi : i < s.cfg.bufSize) (b : Byte) :
      HostResult s a (s.writeIn i b)

section
variable {s : State}

/-- A write that is ignored while BUSY (10_state.md R30). -/
theorem hostResult_whenIdle {a : HostAccess} {write : State} (h : s.phase = .idle → HostResult s a write) :
    HostResult s a (s.whenIdle write) := by
  by_cases hidle : s.phase = .idle
  · rw [State.whenIdle, State.busy_of_idle hidle]
    exact h hidle
  · rw [State.whenIdle_of_busy hidle]
    exact .rejects s.rdata

theorem hostResult_read (off : BitVec 18) (size : Nat) :
    HostResult s (.read off size) (s.hostAccess (.read off size)) := by
  rw [State.hostAccess, State.hostRead]
  cases target s.cfg off.toNat size with
  | reg r => exact .reads _ le_rfl
  | inByte a => exact .reads _ le_rfl
  | outByte a =>
    dsimp only
    rw [State.hostReadOut]
    split_ifs
    · exact .reads _ (Nat.le_succ _)
    · exact .reads _ le_rfl
  | nothing => exact .rejects 0

theorem hostResult_write (off : BitVec 18) (size : Nat) (v : Word) :
    HostResult s (.write off size v) (s.hostAccess (.write off size v)) := by
  cases htarget : target s.cfg off.toNat size with
  | reg r =>
    rw [State.hostAccess_write_reg v htarget]
    cases r with
    | ctrl =>
      obtain ⟨rfl, rfl⟩ := target_eq_ctrl htarget
      exact .ctrl v
    | status | outLen | info => exact .rejects s.rdata
    | op => exact hostResult_whenIdle fun hidle => .operands hidle _ s.param s.align s.inLen
    | param => exact hostResult_whenIdle fun hidle => .operands hidle s.op _ s.align s.inLen
    | align => exact hostResult_whenIdle fun hidle => .operands hidle s.op s.param _ s.inLen
    | inLen => exact hostResult_whenIdle fun hidle => .operands hidle s.op s.param s.align _
  | inByte a =>
    rw [State.hostAccess_write_inByte v htarget]
    exact hostResult_whenIdle fun hidle => .inBuf hidle (target_eq_inByte htarget) _
  | outByte a =>
    rw [State.hostAccess_write_outByte v htarget]
    exact .rejects s.rdata
  | nothing =>
    rw [State.hostAccess_write_nothing v htarget]
    exact .rejects s.rdata

theorem hostAccess_result (s : State) (a : HostAccess) : HostResult s a (s.hostAccess a) := by
  cases a with
  | read off size => exact hostResult_read off size
  | write off size v => exact hostResult_write off size v

end

/-- Settles O45: while BUSY an access reads, is rejected, or writes CTRL, of which only IRQ_EN and PROTO change. -/
theorem busyBlockKeepsItsOperation : Obligations.BusyBlockKeepsItsOperation := by
  unfold Obligations.BusyBlockKeepsItsOperation
  intro s a hbusy
  have hresult := hostAccess_result s a
  generalize s.hostAccess a = t at hresult ⊢
  cases hresult with
  | reads v _ => exact ⟨s.irqEn, s.proto, v, _, rfl⟩
  | rejects v => exact ⟨s.irqEn, true, v, s.draws, rfl⟩
  | ctrl v => exact ⟨_, _, s.rdata, s.draws, State.writeCtrl_of_busy hbusy v⟩
  | operands hidle => exact absurd hidle hbusy
  | inBuf hidle => exact absurd hidle hbusy

/-! ### PROTO -/

/-- A row leaves PROTO alone. -/
theorem result_proto {s t : State} {sp : Space} (h : RowResult s sp t) : t.proto = s.proto := by
  cases h with
  | goesOn _ | fails _ => rfl
  | @completes w bytes info _ _ =>
    rcases (s.setWork w).complete_cases bytes info with ⟨-, h⟩ | ⟨-, h⟩ <;> rw [h] <;> rfl

/-- The engine's move leaves PROTO alone (60_exceptions.md R376). -/
theorem engineStep_proto {s t : State} (h : engineStep s = .next t) : t.proto = s.proto := by
  obtain ⟨-, hstep⟩ | ⟨e, hstep⟩ | ⟨i, w, -, hstep⟩ := engineStep_cases s
  · cases hstep.symm.trans h
    rfl
  · cases hstep.symm.trans h
    rfl
  · exact result_proto (s := s.setWork w) (result_of_exec (hstep.symm.trans h))

/-- A write of CTRL lowers PROTO only by CLEAR while IDLE (10_state.md R22, R23). -/
theorem writeCtrl_proto {s : State} {v : Word} (hbefore : s.proto = true) (hafter : (s.writeCtrl v).proto = false) :
    v.getLsbD 1 = true ∧ s.phase = .idle := by
  by_cases hidle : s.phase = .idle
  · refine ⟨?_, hidle⟩
    rw [State.writeCtrl_of_idle hidle] at hafter
    cases hclear : v.getLsbD 1 with
    | true => rfl
    | false =>
      have hproto : ∀ start, ({ s with irqEn := v.getLsbD 2 }.actCtrl false start).proto = s.proto := by
        intro start
        cases start <;> rfl
      rw [hclear, hproto, hbefore] at hafter
      cases hafter
  · rw [State.writeCtrl_of_busy hidle] at hafter
    simp [hbefore] at hafter

/-- Settles O47: the engine leaves PROTO alone, and of the host's events only these two lower it. -/
theorem protoFallsOnlyByClearOrReset : Obligations.ProtoFallsOnlyByClearOrReset := by
  unfold Obligations.ProtoFallsOnlyByClearOrReset
  intro s t hstep hbefore hafter
  have hengine : ∀ u : State, engineStep u = .next t → u.proto = true → False := fun u hu hproto => by
    rw [engineStep_proto hu, hproto] at hafter
    cases hafter
  cases hevents : s.events with
  | nil =>
    rw [step_of_no_events hevents] at hstep
    exact (hengine s hstep hbefore).elim
  | cons e rest =>
    refine ⟨e, rest, rfl, ?_⟩
    rw [step_of_events hevents] at hstep
    split_ifs at hstep
    · cases e with
      | reset level =>
        cases level with
        | true => exact .inl rfl
        | false =>
          cases hstep
          cases hbefore.symm.trans hafter
      | access a =>
        obtain hrst | hrst := Bool.eq_false_or_eq_true s.rst
        · cases (hostStep_access_in_reset (s := { s with events := rest, turn := s.turn + 1 }) hrst a).symm.trans hstep
        · have ht := (hostStep_access (s := { s with events := rest, turn := s.turn + 1 }) hrst a).symm.trans hstep
          rw [Host.Outcome.next.injEq] at ht
          have hresult := hostAccess_result { s with events := rest, turn := s.turn + 1 } a
          rw [ht] at hresult
          cases hresult with
          | ctrl v => exact .inr ⟨v, rfl, writeCtrl_proto (s := { s with events := rest, turn := s.turn + 1 }) hbefore hafter⟩
          | reads | operands | inBuf => cases hbefore.symm.trans hafter
          | rejects => cases hafter
    · exact (hengine _ hstep hbefore).elim

end Sys2Proof.Machine
end

section
/-! SUPPORT. What the host reads and writes (10_state.md R21 to R32, 20_memory.md R66) and what the reset input does
(70_reset_and_hazards.md R400, R401). -/
namespace Sys2Proof.Machine

/-! ### Accesses that are served -/

section
variable {s : State}

theorem offset_toNat {off : Nat} (h : off < 2 ^ 18) : (BitVec.ofNat 18 off).toNat = off := by
  rw [BitVec.toNat_ofNat, Nat.mod_eq_of_lt h]

theorem target_reg (P : Params) {off : Nat} {r : Reg} (h : regAt off = some r) : target P off 4 = .reg r := by
  simp [target, h]

/-- A read of a register, IDLE or BUSY, returns its word (20_memory.md R66). -/
theorem hostStep_read_reg (hrst : s.rst = false) {off : Nat} {r : Reg} (h : regAt off = some r) :
    hostStep (.access (.read (BitVec.ofNat 18 off) 4)) s = .next { s with rdata := s.readReg r } := by
  have hsome : (regAt off).isSome := by rw [h]; rfl
  obtain ⟨-, hlt⟩ := (regAt_isSome_iff off).1 hsome
  rw [hostStep_access hrst, State.hostAccess, offset_toNat (by omega), State.hostRead, target_reg s.cfg h]
  rfl

theorem hostStep_write_reg (hrst : s.rst = false) {off : BitVec 18} {r : Reg} (h : regAt off.toNat = some r) (v : Word) :
    hostStep (.access (.write off 4 v)) s = .next (s.writeReg r v) := by
  rw [hostStep_access hrst, State.hostAccess_write_reg v (target_reg s.cfg h)]

theorem State.whenIdle_of_idle (hidle : s.phase = .idle) (write : State) : s.whenIdle write = write := by
  rw [State.whenIdle, State.busy_of_idle hidle]
  rfl

section
variable {a : Nat} (hlegal : s.cfg.legal) (hrst : s.rst = false) (ha : a < s.cfg.bufSize)
include hlegal hrst ha

/-- A read of IN_BUF returns the stored byte (10_state.md R31). -/
theorem hostStep_read_inBuf :
    hostStep (.access (.read (BitVec.ofNat 18 (0x10000 + a)) 1)) s =
      .next { s with rdata := (s.readIn a).setWidth 32 } := by
  have hsize := legal_bufSize_le hlegal
  rw [hostStep_access hrst, State.hostAccess, offset_toNat (by omega), State.hostRead,
    target_inByte (Nat.le_add_right _ _) (by omega), Nat.add_sub_cancel_left]
  rfl

/-- A read of OUT_BUF (10_state.md R32). -/
theorem hostStep_read_outBuf :
    hostStep (.access (.read (BitVec.ofNat 18 (0x20000 + a)) 1)) s = .next (s.hostReadOut a) := by
  have hsize := legal_bufSize_le hlegal
  rw [hostStep_access hrst, State.hostAccess, offset_toNat (by omega), State.hostRead,
    target_outByte hsize (Nat.le_add_right _ _) (by omega), Nat.add_sub_cancel_left]

/-- A write of IN_BUF while IDLE (10_state.md R31). -/
theorem hostStep_write_inBuf (hidle : s.phase = .idle) (v : Word) :
    hostStep (.access (.write (BitVec.ofNat 18 (0x10000 + a)) 1 v)) s = .next (s.writeIn a (v.setWidth 8)) := by
  have hsize := legal_bufSize_le hlegal
  have htarget : target s.cfg (BitVec.ofNat 18 (0x10000 + a)).toNat 1 = .inByte a := by
    rw [offset_toNat (by omega), target_inByte (Nat.le_add_right _ _) (by omega), Nat.add_sub_cancel_left]
  rw [hostStep_access hrst, State.hostAccess_write_inByte v htarget, State.whenIdle_of_idle hidle]

end

end

/-- A field that is written and read keeps its low bits, the bits above it 0 (10_state.md R30). -/
theorem setWidth_setWidth_eq_and (v : Word) {n : Nat} (hn : n ≤ 32) :
    (v.setWidth n).setWidth 32 = v &&& BitVec.ofNat 32 (2 ^ n - 1) := by
  have hmask : 2 ^ n - 1 < 2 ^ 32 := Nat.sub_one_lt_of_le (Nat.two_pow_pos n) (Nat.pow_le_pow_right (by decide) hn)
  have hlow : v.toNat % 2 ^ n < 2 ^ 32 := (Nat.mod_le _ _).trans_lt v.isLt
  refine BitVec.eq_of_toNat_eq ?_
  rw [BitVec.toNat_setWidth, BitVec.toNat_setWidth, BitVec.toNat_and, BitVec.toNat_ofNat, Nat.mod_eq_of_lt hmask,
    Nat.and_two_pow_sub_one_eq_mod, Nat.mod_eq_of_lt hlow]

/-- Settles O49: the four accesses, each by what it reaches, and the byte that was written read back. -/
theorem buffersReadAndWriteBack : Obligations.BuffersReadAndWriteBack := by
  unfold Obligations.BuffersReadAndWriteBack
  intro s a v hlegal hrst ha readIn readOut
  refine ⟨hostStep_read_inBuf hlegal hrst ha, fun hidle => ?idle, fun hbusy => ?busy, fun hidle =>
    ⟨_, hostStep_write_inBuf hlegal hrst ha hidle v, rfl, s.readIn_writeIn_same a _,
      fun x hx => s.readIn_writeIn_other _ hx, ?back⟩⟩
  case idle =>
    rw [hostStep_read_outBuf hlegal hrst ha, State.hostReadOut, State.busy_of_idle hidle]
    rfl
  case busy =>
    rw [hostStep_read_outBuf hlegal hrst ha, State.hostReadOut, if_pos ((State.busy_iff s).2 hbusy)]
    rfl
  case back =>
    have hread := hostStep_read_inBuf (s := s.writeIn a (v.setWidth 8)) hlegal hrst ha
    rwa [State.readIn_writeIn_same, setWidth_setWidth_eq_and v (by decide)] at hread

/-! ### The words of the registers -/

/-- A word put together from a high and a low field. -/
theorem toNat_append_eq {n m : Nat} (x : BitVec n) (y : BitVec m) : (x ++ y).toNat = x.toNat * 2 ^ m + y.toNat := by
  rw [BitVec.toNat_append, ← Nat.shiftLeft_add_eq_or_of_lt y.isLt, Nat.shiftLeft_eq]

/-- CTRL as a number (10_state.md R22). -/
theorem State.ctrlWord_toNat (s : State) : s.ctrlWord.toNat = 4 * s.irqEn.toNat := by
  have hword : s.ctrlWord.toNat = (0#29 ++ BitVec.ofBool s.irqEn ++ 0#2).toNat := rfl
  rw [hword, toNat_append_eq, toNat_append_eq, BitVec.toNat_ofBool]
  simp
  omega

/-- STATUS as a number (10_state.md R23). -/
theorem State.statusWord_toNat (s : State) :
    s.statusWord.toNat = s.busy.toNat + 2 * s.done.toNat + 4 * s.err.toNat + 8 * s.proto.toNat +
      256 * s.errCode.toNat + 4096 * s.errClass.toNat := by
  have hword : s.statusWord.toNat = (0#18 ++ s.errClass ++ s.errCode ++ 0#4 ++ BitVec.ofBool s.proto ++
    BitVec.ofBool s.err ++ BitVec.ofBool s.done ++ BitVec.ofBool s.busy).toNat := rfl
  simp only [hword, toNat_append_eq, BitVec.toNat_ofBool, BitVec.toNat_ofNat]
  omega

/-- A field at the bottom of a register reads as it is. -/
theorem setWidth_toNat {n : Nat} (x : BitVec n) (hn : n ≤ 32) : (x.setWidth 32).toNat = x.toNat :=
  BitVec.toNat_setWidth_of_le hn

/-- The fields of PARAM and INFO (10_state.md R25, R29). -/
theorem param_fields (p : BitVec 7) :
    p.toNat = paramWidth p + 16 * (paramSwap p).toNat + 32 * paramMode p := by
  have hswap : (paramSwap p).toNat = p.toNat / 16 % 2 := by
    rw [paramSwap, BitVec.getLsbD, Nat.toNat_testBit]
  rw [hswap, paramWidth, paramMode]
  omega

theorem infoOf_fields (p : BitVec 7) : p = infoOf (paramWidth p) (paramSwap p) (paramMode p) := by
  rw [infoOf, ← param_fields, BitVec.ofNat_toNat, BitVec.setWidth_eq]

theorem paramMode_le (p : BitVec 7) : paramMode p ≤ 3 := by
  unfold paramMode
  omega

/-- The offsets of the eight registers (10_state.md R21). -/
theorem regAt_offsets :
    ∀ x ∈ [((0x00 : Nat), Reg.ctrl), (0x04, .status), (0x08, .op), (0x0C, .param), (0x10, .align), (0x14, .inLen),
      (0x18, .outLen), (0x1C, .info)], regAt x.1 = some x.2 := by
  decide

/-- Settles O44: the words as numbers, the fields of PARAM and INFO, and each register read and written. -/
theorem registersReadAndWriteBack : Obligations.RegistersReadAndWriteBack := by
  unfold Obligations.RegistersReadAndWriteBack
  refine ⟨fun s => ⟨s.ctrlWord_toNat, s.statusWord_toNat, setWidth_toNat _ (by decide), setWidth_toNat _ (by decide),
    rfl⟩, fun p => ⟨paramWidth_le p, paramMode_le p, param_fields p, infoOf_fields p⟩,
    fun s v hrst => ⟨fun x hx => hostStep_read_reg hrst (regAt_offsets x hx), fun hidle =>
      ⟨fun hstart hclear => ?ctrl, ?operands⟩⟩⟩
  case ctrl =>
    rw [hostStep_write_ctrl hrst, State.writeCtrl_of_idle hidle, hstart, hclear]
    rfl
  case operands =>
    have hop := hostStep_write_reg hrst (off := 0x08) (r := .op) rfl v
    have hparam := hostStep_write_reg hrst (off := 0x0C) (r := .param) rfl v
    have halign := hostStep_write_reg hrst (off := 0x10) (r := .align) rfl v
    have hinLen := hostStep_write_reg hrst (off := 0x14) (r := .inLen) rfl v
    simp only [State.writeReg, State.whenIdle_of_idle hidle] at hop hparam halign hinLen
    exact ⟨⟨_, hop, setWidth_setWidth_eq_and (n := 3) v (by decide), rfl⟩,
      ⟨_, hparam, setWidth_setWidth_eq_and (n := 7) v (by decide), rfl⟩,
      ⟨_, halign, setWidth_setWidth_eq_and (n := 16) v (by decide), rfl⟩,
      ⟨_, hinLen, setWidth_setWidth_eq_and (n := 17) v (by decide), rfl⟩⟩

/-! ### The reset input -/

/-- Settles O10: the state that the assertion leaves, and what is served in it and after the release. -/
theorem resetInputAbortsAndReleases : Obligations.ResetInputAbortsAndReleases := by
  unfold Obligations.ResetInputAbortsAndReleases
  have hregs : ∀ (s : State) (rst : Bool) (r : Reg),
      { s.assertReset with rst := rst }.readReg r = State.reset.readReg r := by
    intro s rst r
    cases r <;> rfl
  refine fun s => ⟨s.assertReset, rfl, rfl, rfl, rfl, hregs s true, fun _ => rfl, fun _ => rfl,
    hostStep_access_in_reset rfl, fun _ => rfl, fun off r hreg => ?read⟩
  case read =>
    have hread := hostStep_read_reg (s := { s.assertReset with rst := false }) rfl hreg
    rwa [hregs] at hread

end Sys2Proof.Machine
end

section
/-! SUPPORT. The machine's invariant: every step keeps it (10_state.md R23, R28, R29, R31, R32, R36, 43_codec_a_rle.md R236). -/
namespace Sys2Proof.Machine

/-! ### The working registers, by phase -/

/-- No phase is in both streams. -/
theorem Phase.inStreamA_or_inStreamB_false (p : Phase) : p.inStreamA = false ∨ p.inStreamB = false := by
  cases p <;> decide

section
variable {s : State}

/-- In IDLE only the bit index is constrained. -/
theorem workInv_of_idle (hidle : s.phase = .idle) (hbit : s.work.rc.bit ≤ 7) : s.WorkInv := by
  constructor
  case bitIndex => exact hbit
  all_goals simp [hidle, Phase.inStreamA, Phase.inStreamB]

/-- Before the first row of a stream the working registers are fresh (10_state.md R43). -/
theorem workInv_of_fresh (hphase : s.phase = .dispatch ∨ s.phase = .aHdr) (hfresh : s.work = Work.init)
    (hlen : s.phase = .aHdr → s.lInLen.toNat ≤ s.cfg.bufSize) : s.WorkInv where
  bitIndex := by rw [hfresh]; exact le_rfl
  fresh _ := hfresh
  widthOk h := by rcases hphase with hp | hp <;> rw [hp] at h <;> cases h
  planeOpen h := by rcases hphase with hp | hp <;> rw [hp] at h <;> cases h
  planeFull h := by rcases hphase with hp | hp <;> rw [hp] at h <;> cases h
  firstFull h := by
    rcases hphase with hp | hp <;> rw [hp] at h <;> rcases h with h | ⟨h, -⟩ <;> cases h
  modeOk _ := by rw [hfresh]; exact Nat.zero_le 2
  copyLen h := by rcases hphase with hp | hp <;> rw [hp] at h <;> cases h
  outFits h := by rcases hphase with hp | hp <;> rw [hp] at h <;> cases h
  lengthOk h := by
    refine hlen (hphase.resolve_left fun hp => ?_)
    rw [hp] at h
    rcases h with h | h | h <;> cases h

/-- In a Codec B stream (44_codec_b_commands.md R270, R302). -/
theorem workInv_of_inStreamB (hphase : s.phase.inStreamB = true) (hbit : s.work.rc.bit ≤ 7)
    (hcopy : s.phase = .bPayload → 1 ≤ s.work.len ∧ s.work.len ≤ Config.maxLen)
    (hout : s.work.out.length ≤ s.cfg.bufSize) (hlen : s.lInLen.toNat ≤ s.cfg.bufSize) : s.WorkInv := by
  have hother : s.phase.inStreamA = false := s.phase.inStreamA_or_inStreamB_false.resolve_right (by simp [hphase])
  exact {
    bitIndex := hbit
    fresh := fun h => by rcases h with h | h <;> rw [h] at hphase <;> cases hphase
    widthOk := fun h => absurd (hother.symm.trans h) (by decide)
    planeOpen := fun h => by rw [h] at hphase; cases hphase
    planeFull := fun h => by rw [h] at hphase; cases hphase
    firstFull := fun h => by
      rcases h with h | ⟨h, -⟩
      · rw [h] at hphase; cases hphase
      · exact absurd (hother.symm.trans h) (by decide)
    modeOk := fun h => absurd (hother.symm.trans h) (by decide)
    copyLen := hcopy
    outFits := fun _ => hout
    lengthOk := fun _ => hlen }

/-- In a Codec A stream past its header (43_codec_a_rle.md R236, R250). -/
theorem workInv_of_inStreamA (hphase : s.phase.inStreamA = true) (hbit : s.work.rc.bit ≤ 7)
    (hwidth : 1 ≤ s.work.width ∧ s.work.width ≤ 15) (hmode : s.work.mode ≤ 2)
    (hopen : s.phase = .aPacket → s.work.seq.length < s.planeSize)
    (hfull : s.phase = .aPad → s.work.second = true ∧ s.work.seq.length = s.planeSize)
    (hfirst : s.phase = .aMode ∨ s.work.second = true → s.work.firstSeq.length = s.planeSize)
    (hlen : s.lInLen.toNat ≤ s.cfg.bufSize) : s.WorkInv := by
  have hother : s.phase.inStreamB = false := s.phase.inStreamA_or_inStreamB_false.resolve_left (by simp [hphase])
  exact {
    bitIndex := hbit
    fresh := fun h => by rcases h with h | h <;> rw [h] at hphase <;> cases hphase
    widthOk := fun _ => hwidth
    planeOpen := hopen
    planeFull := hfull
    firstFull := fun h => hfirst (h.imp_right And.right)
    modeOk := fun _ => hmode
    copyLen := fun h => by rw [h] at hphase; cases hphase
    outFits := fun h => absurd (hother.symm.trans h) (by decide)
    lengthOk := fun _ => hlen }

end

/-! ### The working registers after a row that goes on -/

/-- What holds in a Codec B stream whatever is fetched (44_codec_b_commands.md R302). -/
structure State.InCodecB (u : State) : Prop where
  bit : u.work.rc.bit ≤ 7
  out : u.work.out.length ≤ u.cfg.bufSize
  len : u.lInLen.toNat ≤ u.cfg.bufSize

/-- What holds in a Codec A stream past its header whatever is fetched (43_codec_a_rle.md R250). -/
structure State.InCodecA (u : State) : Prop where
  bit : u.work.rc.bit ≤ 7
  width : 1 ≤ u.work.width ∧ u.work.width ≤ 15
  mode : u.work.mode ≤ 2
  first : u.phase = .aMode ∨ u.work.second = true → u.work.firstSeq.length = u.planeSize
  len : u.lInLen.toNat ≤ u.cfg.bufSize

/-- If the row goes on, the working registers are as the new phase wants them. -/
def State.Keeps (t : State) : Prop :=
  t.phase ≠ .idle → t.WorkInv

theorem keeps_raise (s : State) (e : Err) : (s.raise e).Keeps :=
  fun h => absurd rfl h

theorem keeps_complete (s : State) (bytes : List Byte) (info : BitVec 7) : (s.complete bytes info).Keeps :=
  fun h => absurd (State.complete_phase _ _ _) h

section
variable {u : State}

theorem keeps_append (hu : u.InCodecB) (bs : List Byte) : (u.append bs).Keeps := by
  rcases u.append_cases bs with ⟨hfits, h⟩ | ⟨-, h⟩ <;> rw [h]
  · exact fun _ => workInv_of_inStreamB rfl hu.bit nofun (List.length_append.trans_le hfits) hu.len
  · exact keeps_raise u _

theorem keeps_withPayload (hu : u.InCodecB) (n : Nat) (f : List Byte → List Byte) : (u.withPayload n f).Keeps := by
  rcases u.withPayload_cases n f with ⟨-, h⟩ | ⟨-, h⟩ <;> rw [h]
  · exact keeps_append (u := u.setWork { u.work with rp := u.work.rp + n }) ⟨hu.bit, hu.out, hu.len⟩ _
  · exact keeps_raise u _

theorem keeps_runCopy (hu : u.InCodecB) (src : Int) : (u.runCopy src).Keeps := by
  rcases u.runCopy_cases src with ⟨-, h⟩ | ⟨-, -, h⟩ | ⟨-, hfits, h⟩ <;> rw [h]
  · exact keeps_raise u _
  · exact keeps_raise u _
  · exact fun _ => workInv_of_inStreamB rfl hu.bit nofun ((copyBytes_length _ _ _ _).trans_le hfits) hu.len

/-- The length of a command is in the range of its header (30_encoding.md R101, R102). -/
theorem headerOf_len {P : Params} {i : Instr} (hwf : i.wf P) {kind len : Nat} (h : headerOf i = .command kind len) :
    1 ≤ len ∧ len ≤ Config.maxLen := by
  cases i with
  | lit | iter | alt | zero | rep | flip | reverse =>
    obtain ⟨hlo, hhi⟩ := hwf
    cases h
    exact ⟨hlo, hhi.trans (by decide)⟩
  | litLong | iterLong | altLong | zeroLong | repLong | flipLong | reverseLong =>
    cases h
    exact hwf
  | _ => cases h

/-- A Codec B row (44_codec_b_commands.md R290). -/
theorem keeps_codecB (hu : u.InCodecB) {i : Instr} (hspace : i.space = .bHeader ∨ i.space = .bOffset) (hwf : i.wf u.cfg)
    {t : State} (hexec : exec i u = .next t) : t.Keeps := by
  rcases hspace with hspace | hspace
  · cases (exec_header hspace u).symm.trans hexec
    cases hheader : headerOf i with
    | stop => exact keeps_complete u _ _
    | reserved => exact keeps_raise u _
    | command kind len =>
      rcases kind with _ | _ | _ | _ | kind
      · exact keeps_withPayload hu len id
      · exact keeps_withPayload hu 1 _
      · exact keeps_withPayload hu 2 _
      · exact keeps_append hu _
      · exact fun _ => workInv_of_inStreamB rfl hu.bit (fun _ => headerOf_len hwf hheader) hu.out hu.len
  · cases (exec_offset hspace u).symm.trans hexec
    exact keeps_runCopy hu _

/-- A plane has pairs (00_scope.md R9). -/
theorem State.InCodecA.planeSize_pos (hu : u.InCodecA) : 0 < u.planeSize := by
  obtain ⟨hlo, -⟩ := hu.width
  exact planePairs_pos hlo

/-- A Codec A token that goes on in the same plane size. -/
theorem workInv_of_goto (hu : u.InCodecA) {w : Work} {p : Phase} (hp : p.inStreamA = true) (hrc : w.rc = u.work.rc)
    (hwidth : w.width = u.work.width) (hmode : w.mode ≤ 2) (hopen : p = .aPacket → w.seq.length < u.planeSize)
    (hfull : p = .aPad → w.second = true ∧ w.seq.length = u.planeSize)
    (hfirst : p = .aMode ∨ w.second = true → w.firstSeq.length = u.planeSize) : ((u.setWork w).goto p).WorkInv := by
  have hsize : ((u.setWork w).goto p).planeSize = u.planeSize := congrArg Config.planePairs hwidth
  rw [← hsize] at hopen hfull hfirst
  refine workInv_of_inStreamA hp ?_ ?_ hmode hopen hfull hfirst hu.len
  · exact hrc ▸ hu.bit
  · exact hwidth ▸ hu.width

/-- The production of pairs within the plane (43_codec_a_rle.md R236). -/
theorem keeps_produce (hu : u.InCodecA) {seq : List Pair} (hle : seq.length ≤ u.planeSize) (next : Packet) :
    (u.produce seq next).Keeps := by
  rcases u.produce_cases seq next with ⟨hfull, hsecond, h⟩ | ⟨hfull, hsecond, h⟩ | ⟨hopen, h⟩ <;> rw [h] <;> intro _
  · exact workInv_of_goto hu rfl rfl rfl hu.mode nofun (fun _ => ⟨hsecond, hfull⟩) fun _ => hu.first (.inr hsecond)
  · exact workInv_of_goto hu rfl rfl rfl hu.mode nofun nofun fun _ => hfull
  · exact workInv_of_goto hu rfl rfl rfl hu.mode (fun _ => lt_of_le_of_ne hle hopen) nofun
      fun h => hu.first (.inr (h.resolve_left nofun))

/-- A Codec A token past the header (43_codec_a_rle.md R236, R250). -/
theorem keeps_codecA (hu : u.InCodecA) (hopen : u.phase = .aPacket → u.work.seq.length < u.planeSize) {sp : Space}
    (hsp : u.FetchesA sp) (hne : sp ≠ .aHdr) {i : Instr} (hspace : i.space = sp) {t : State}
    (hexec : exec i u = .next t) : t.Keeps := by
  have hstart : ∀ packet, (u.startPlane packet).Keeps := fun packet _ =>
    workInv_of_goto hu rfl rfl rfl hu.mode (fun _ => hu.planeSize_pos) nofun fun h => hu.first (.inr (h.resolve_left nofun))
  obtain ⟨-, rfl⟩ | ⟨-, rfl⟩ | ⟨-, rfl⟩ | ⟨hphase, rfl⟩ | ⟨hphase, rfl⟩ := hsp
  · exact absurd rfl hne
  · cases i with
    | aOrd order =>
      cases hexec
      exact fun _ => workInv_of_goto hu rfl rfl rfl hu.mode nofun nofun fun h => hu.first (.inr (h.resolve_left nofun))
    | _ => cases hspace
  · cases i with
    | aS0 | aS1 =>
      cases hexec
      exact hstart _
    | _ => cases hspace
  · have hmode : ∀ mode, mode ≤ 2 → (u.setMode mode).Keeps := fun mode hle _ =>
      workInv_of_goto hu rfl rfl rfl hle nofun nofun fun _ => hu.first (.inl hphase)
    cases i with
    | aM0 | aM1 | aM2 =>
      cases hexec
      exact hmode _ (by decide)
    | _ => cases hspace
  · cases hpacket : u.work.packet <;> rw [hpacket] at hspace
    case data =>
      cases i with
      | aP pair =>
        cases hexec
        exact keeps_produce hu (by rw [List.length_append]; exact hopen hphase) _
      | aT =>
        cases hexec
        exact fun _ =>
          workInv_of_goto hu rfl rfl rfl hu.mode (fun _ => hopen hphase) nofun fun h => hu.first (.inr (h.resolve_left nofun))
      | _ => cases hspace
    case rle =>
      cases i with
      | aRun w v =>
        cases hexec
        split_ifs with hover
        · exact keeps_raise u _
        · exact keeps_produce hu (by rw [List.length_append, List.length_replicate]; exact not_lt.1 hover) _
      | _ => cases hspace

end

/-- The header of a Codec A stream: a size that is kept is in range (43_codec_a_rle.md R250). -/
theorem keeps_header {s : State} (hs : s.WorkInv) (hphase : s.phase = .aHdr) {rc : Cursor} (hbit : rc.bit ≤ 7) {i : Instr}
    (hspace : i.space = .aHdr) (hwf : i.wf s.cfg) {t : State}
    (hexec : exec i (s.setWork (s.work.moveTo rc)) = .next t) : t.Keeps := by
  have hfresh := hs.fresh (.inr hphase)
  cases i with
  | aHdr w h =>
    cases hexec
    split_ifs with hsquare hzero
    · exact keeps_raise _ _
    · exact keeps_raise _ _
    · obtain ⟨hw, -⟩ := hwf
      refine fun _ => workInv_of_inStreamA rfl hbit ⟨Nat.one_le_iff_ne_zero.2 hzero, hw⟩ ?_ nofun nofun (fun h => ?_)
        (hs.lengthOk (.inl hphase))
      · exact (congrArg Work.mode hfresh).trans_le (Nat.zero_le 2)
      · cases (congrArg Work.second hfresh).symm.trans (h.resolve_left nofun)
  | _ => cases hspace

/-! ### What the host sees -/

section
variable {s : State}

/-- Error entry keeps the invariant (40_operations.md R134). -/
theorem State.Inv.raise (hs : s.Inv) {w : Work} (hbit : w.rc.bit ≤ 7) (e : Err) : ((s.setWork w).raise e).Inv where
  cfgLegal := hs.cfgLegal
  buffers :=
    { inWf := hs.buffers.inWf
      outWf := List.Pairwise.nil
      inBound := hs.buffers.inBound
      outBound := nofun
      outLenBound := Nat.zero_le _
      inDrawn := Nat.lt_succ_of_lt hs.buffers.inDrawn
      outDrawn := Nat.lt_succ_self _
      result := fun _ _ => rfl }
  registers :=
    { noError := nofun
      someError := fun _ => ⟨e, rfl, rfl⟩
      infoMode := (by decide : paramMode 0 ≠ 3)
      quiet := fun h => absurd rfl h
      latches := fun h => absurd rfl h
      resetIdle := fun _ => rfl }
  working := workInv_of_idle rfl hbit

/-- Completion keeps the invariant (40_operations.md R134). -/
theorem State.Inv.complete (hs : s.Inv) {w : Work} (hbit : w.rc.bit ≤ 7) (bytes : List Byte) {info : BitVec 7}
    (hinfo : paramMode info ≠ 3) : ((s.setWork w).complete bytes info).Inv := by
  rcases (s.setWork w).complete_cases bytes info with ⟨hfits, h⟩ | ⟨-, h⟩ <;> rw [h]
  · have hbound : bytes.length ≤ s.cfg.bufSize := hfits
    have hlen : (BitVec.ofNat 17 bytes.length).toNat = bytes.length := by
      have hsize := legal_bufSize_le hs.cfgLegal
      rw [BitVec.toNat_ofNat]
      exact Nat.mod_eq_of_lt (by omega)
    exact {
      cfgLegal := hs.cfgLegal
      buffers :=
        { inWf := hs.buffers.inWf
          outWf := Memory.ofBytes_wf 0 bytes
          inBound := hs.buffers.inBound
          outBound := fun c hc => by
            obtain ⟨-, hlt⟩ := Memory.mem_ofBytes hc
            exact (hlt.trans_eq (Nat.zero_add _)).trans_le hbound
          outLenBound := hlen.trans_le hbound
          inDrawn := Nat.lt_succ_of_lt hs.buffers.inDrawn
          outDrawn := Nat.lt_succ_self _
          result := fun _ a => Bool.eq_iff_iff.2 (by simp [Memory.get_ofBytes, hlen]) }
      registers :=
        { noError := fun _ => ⟨rfl, rfl⟩
          someError := nofun
          infoMode := hinfo
          quiet := fun h => absurd rfl h
          latches := fun h => absurd rfl h
          resetIdle := fun _ => rfl }
      working := workInv_of_idle rfl hbit }
  · exact hs.raise hbit _

/-- A row that goes on keeps the invariant where it keeps the working registers' part of it (10_state.md R42). -/
theorem State.Inv.goesOn (hs : s.Inv) (hbusy : s.phase ≠ .idle) {w : Work} {p : Phase} (hp : p ≠ .idle)
    (hwork : ((s.setWork w).goto p).WorkInv) : ((s.setWork w).goto p).Inv where
  cfgLegal := hs.cfgLegal
  buffers := { hs.buffers with result := fun h => absurd h hp }
  registers :=
    { hs.registers with
      quiet := fun _ => hs.registers.quiet hbusy
      latches := fun _ => hs.registers.latches hbusy
      resetIdle := fun h => absurd (hs.registers.resetIdle h) hbusy }
  working := hwork

/-- A row keeps the invariant and the parameters where, going on, it keeps the working registers' part. -/
theorem inv_of_result (hs : s.Inv) (hbusy : s.phase ≠ .idle) {w : Work} (hbit : w.rc.bit ≤ 7) {sp : Space}
    (hpad : sp = .aPad → w.width ≤ 15 ∧ w.mode ≤ 2) {t : State} (hresult : RowResult (s.setWork w) sp t)
    (hkeeps : t.Keeps) : t.Inv ∧ t.cfg = s.cfg := by
  cases hresult with
  | goesOn h =>
    have hp := goesOn_ne_idle h
    exact ⟨hs.goesOn hbusy hp (hkeeps hp), rfl⟩
  | @fails w' e hrc =>
    have hbit' : w'.rc.bit ≤ 7 := hrc ▸ hbit
    exact ⟨hs.raise hbit' e, rfl⟩
  | @completes w' bytes info hrc hinfo =>
    have hbit' : w'.rc.bit ≤ 7 := by
      rcases hrc with h | h <;> rw [h]
      · exact hbit
      · exact le_rfl
    refine ⟨hs.complete hbit' bytes (hinfo hpad), ?_⟩
    rcases ((s.setWork w).setWork w').complete_cases bytes info with ⟨-, h⟩ | ⟨-, h⟩ <;> rw [h] <;> rfl

/-- In a Codec A stream past its header (43_codec_a_rle.md R250). -/
theorem State.WorkInv.inCodecA (hs : s.WorkInv) (hphase : s.phase.inStreamA = true) {rc : Cursor} (hbit : rc.bit ≤ 7) :
    (s.setWork (s.work.moveTo rc)).InCodecA where
  bit := hbit
  width := hs.widthOk hphase
  mode := hs.modeOk hphase
  first h := hs.firstFull (h.imp_right fun h => ⟨hphase, h⟩)
  len := hs.lengthOk (.inr (.inl hphase))

/-- In a Codec B stream (44_codec_b_commands.md R302). -/
theorem State.WorkInv.inCodecB (hs : s.WorkInv) (hphase : s.phase.inStreamB = true) (rp : Nat) :
    (s.setWork (s.work.skipTo rp)).InCodecB where
  bit := hs.bitIndex
  out := hs.outFits hphase
  len := hs.lengthOk (.inr (.inr hphase))

/-- An operation code starts a decoder with fresh registers (10_state.md R43). -/
theorem keeps_op {i : Instr} (hspace : i.space = .op) {t : State} (hexec : exec i s = .next t) : t.Keeps := by
  have hresult := result_of_exec hexec
  rw [hspace] at hresult
  cases hresult with
  | goesOn h =>
    obtain ⟨hfits, rfl, rfl | rfl⟩ := h
    · exact fun _ => workInv_of_fresh (.inr rfl) rfl fun _ => hfits
    · exact fun _ => workInv_of_inStreamB rfl le_rfl nofun (Nat.zero_le _) hfits
  | fails _ => exact keeps_raise _ _
  | completes _ _ => exact keeps_complete _ _ _

/-- The header is fetched in its own phase, and every other token in the stream past it (43_codec_a_rle.md R250). -/
theorem State.FetchesA.header_or_stream {sp : Space} (h : s.FetchesA sp) :
    (s.phase = .aHdr ∧ sp = .aHdr) ∨ (s.phase.inStreamA = true ∧ sp ≠ .aHdr) := by
  rcases h with h | ⟨h, rfl⟩ | ⟨h, rfl⟩ | ⟨h, rfl⟩ | ⟨h, rfl⟩
  · exact .inl h
  all_goals refine .inr ⟨by rw [h]; rfl, ?_⟩
  · decide
  · decide
  · decide
  · cases s.work.packet <;> decide

/-- A fetched row keeps the invariant and the parameters. -/
theorem inv_of_fetches (hs : s.Inv) {i : Instr} {w : Work} (hfetch : Fetches s i w) {t : State}
    (hexec : exec i (s.setWork w) = .next t) : t.Inv ∧ t.cfg = s.cfg := by
  have hresult := result_of_exec hexec
  have hwork := hs.working
  cases hfetch with
  | op hphase hspace =>
    refine inv_of_result hs (by simp [hphase]) hwork.bitIndex (fun h => ?_) hresult (keeps_op hspace hexec)
    cases hspace.symm.trans h
  | @token sp i rc hsp hspace hwf hrc =>
    obtain ⟨hbit, -⟩ := hrc hwork.bitIndex
    have hbusy : s.phase ≠ .idle := fun h => by rcases hsp.phase_eq with hp | hp <;> rw [h] at hp <;> cases hp
    refine inv_of_result hs hbusy hbit (fun h => absurd (hspace.symm.trans h) hsp.ne_aPad) hresult ?_
    obtain ⟨hphase, rfl⟩ | ⟨hphase, hne⟩ := hsp.header_or_stream
    · exact keeps_header hwork hphase hbit hspace hwf hexec
    · exact keeps_codecA (hwork.inCodecA hphase hbit) hwork.planeOpen hsp hne hspace hexec
  | @padding n rc hphase hrc =>
    have hstream : s.phase.inStreamA = true := by rw [hphase]; rfl
    obtain ⟨-, hwidth⟩ := hwork.widthOk hstream
    refine inv_of_result (w := s.work.moveTo rc) hs (by simp [hphase]) (hrc hwork.bitIndex)
      (fun _ => ⟨hwidth, hwork.modeOk hstream⟩) hresult ?_
    cases hexec
    exact keeps_complete _ _ _
  | @row sp i rp hsp hspace hwf hlo hhi =>
    have hphase := hsp.phase_eq
    have hbusy : s.phase ≠ .idle := fun h => by rw [h] at hphase; cases hphase
    have hcodec : i.space = .bHeader ∨ i.space = .bOffset := by rw [hspace]; exact hsp.space_eq
    refine inv_of_result (w := s.work.skipTo rp) hs hbusy hwork.bitIndex (fun h => ?_) hresult
      (keeps_codecB (hwork.inCodecB hphase rp) hcodec hwf hexec)
    rw [h] at hcodec
    rcases hcodec with h | h <;> cases h

/-- The engine's move keeps the invariant and the parameters. -/
theorem inv_of_engineStep (hs : s.Inv) {t : State} (h : engineStep s = .next t) : t.Inv ∧ t.cfg = s.cfg := by
  obtain ⟨-, hstep⟩ | ⟨e, hstep⟩ | ⟨i, w, hfetch, hstep⟩ := engineStep_cases s
  · cases hstep.symm.trans h
    exact ⟨hs, rfl⟩
  · cases hstep.symm.trans h
    exact ⟨hs.raise hs.working.bitIndex e, rfl⟩
  · exact inv_of_fetches hs hfetch (hstep.symm.trans h)

/-! ### The host's side -/

/-- The fields the invariant says nothing about, and a counter of draws that moves on (log 1, log 3, log 4). -/
theorem State.Inv.hostFields (hs : s.Inv) (irqEn proto : Bool) (events : List HostEvent) (v : Word) (turn : Nat) {n : Nat}
    (hdraws : s.draws ≤ n) :
    { s with irqEn := irqEn, proto := proto, events := events, rdata := v, turn := turn, draws := n }.Inv where
  cfgLegal := hs.cfgLegal
  buffers :=
    { hs.buffers with
      inDrawn := hs.buffers.inDrawn.trans_le hdraws
      outDrawn := hs.buffers.outDrawn.trans_le hdraws }
  registers := { hs.registers with infoMode := hs.registers.infoMode }
  working := { hs.working with bitIndex := hs.working.bitIndex }

/-- CLEAR keeps the invariant (40_operations.md R132). -/
theorem State.Inv.clear (hs : s.Inv) : s.clear.Inv where
  cfgLegal := hs.cfgLegal
  buffers := { hs.buffers with inWf := hs.buffers.inWf }
  registers :=
    { hs.registers with
      noError := fun _ => ⟨rfl, rfl⟩
      someError := nofun
      quiet := fun h => by
        obtain ⟨-, -, hlen, hinfo⟩ := hs.registers.quiet h
        exact ⟨rfl, rfl, hlen, hinfo⟩ }
  working := { hs.working with bitIndex := hs.working.bitIndex }

/-- START out of reset keeps the invariant (40_operations.md R131). -/
theorem State.Inv.start (hs : s.Inv) (hrst : s.rst = false) : s.start.Inv where
  cfgLegal := hs.cfgLegal
  buffers := { hs.buffers with outLenBound := Nat.zero_le _, result := nofun }
  registers :=
    { noError := fun _ => ⟨rfl, rfl⟩
      someError := nofun
      infoMode := (by decide : paramMode 0 ≠ 3)
      quiet := fun _ => ⟨rfl, rfl, rfl, rfl⟩
      latches := fun _ => ⟨rfl, rfl, rfl, rfl⟩
      resetIdle := fun h => by cases hrst.symm.trans h }
  working := workInv_of_fresh (.inl rfl) rfl nofun

theorem State.Inv.actCtrl (hs : s.Inv) (hrst : s.rst = false) (clear start : Bool) : (s.actCtrl clear start).Inv := by
  cases clear <;> cases start
  · exact hs
  · exact hs.start hrst
  · exact hs.clear
  · exact hs.clear.start hrst

/-- A write of CTRL out of reset keeps the invariant (10_state.md R22). -/
theorem State.Inv.writeCtrl (hs : s.Inv) (hrst : s.rst = false) (v : Word) : (s.writeCtrl v).Inv := by
  by_cases hidle : s.phase = .idle
  · rw [State.writeCtrl_of_idle hidle]
    exact (hs.hostFields (v.getLsbD 2) s.proto s.events s.rdata s.turn le_rfl).actCtrl hrst _ _
  · rw [State.writeCtrl_of_busy hidle]
    exact hs.hostFields _ _ s.events s.rdata s.turn le_rfl

theorem State.writeCtrl_cfg (s : State) (v : Word) : (s.writeCtrl v).cfg = s.cfg := by
  by_cases hidle : s.phase = .idle
  · rw [State.writeCtrl_of_idle hidle]
    cases v.getLsbD 1 <;> cases v.getLsbD 0 <;> rfl
  · rw [State.writeCtrl_of_busy hidle]

/-- The operand registers may take any values while IDLE (10_state.md R36). -/
theorem State.Inv.operands (hs : s.Inv) (hidle : s.phase = .idle) (op : BitVec 3) (param : BitVec 7) (align : BitVec 16)
    (inLen : BitVec 17) : { s with op := op, param := param, align := align, inLen := inLen }.Inv where
  cfgLegal := hs.cfgLegal
  buffers := { hs.buffers with inWf := hs.buffers.inWf }
  registers := { hs.registers with latches := fun h => absurd hidle h }
  working := { hs.working with bitIndex := hs.working.bitIndex }

/-- A byte written to IN_BUF (10_state.md R31). -/
theorem State.Inv.writeIn (hs : s.Inv) {a : Nat} (ha : a < s.cfg.bufSize) (b : Byte) : (s.writeIn a b).Inv where
  cfgLegal := hs.cfgLegal
  buffers :=
    { hs.buffers with
      inWf := Memory.set_wf hs.buffers.inWf a b
      inBound := fun c hc => by
        rcases Memory.mem_set hc with rfl | hc
        · exact ha
        · exact hs.buffers.inBound c hc }
  registers := { hs.registers with infoMode := hs.registers.infoMode }
  working := { hs.working with bitIndex := hs.working.bitIndex }

/-- A host access out of reset keeps the invariant and the parameters. -/
theorem inv_of_hostAccess (hs : s.Inv) (hrst : s.rst = false) (a : HostAccess) :
    (s.hostAccess a).Inv ∧ (s.hostAccess a).cfg = s.cfg := by
  have hresult := hostAccess_result s a
  generalize s.hostAccess a = t at hresult ⊢
  cases hresult with
  | reads v hdraws => exact ⟨hs.hostFields s.irqEn s.proto s.events v s.turn hdraws, rfl⟩
  | rejects v => exact ⟨hs.hostFields s.irqEn true s.events v s.turn le_rfl, rfl⟩
  | ctrl v => exact ⟨hs.writeCtrl hrst v, s.writeCtrl_cfg v⟩
  | operands hidle op param align inLen => exact ⟨hs.operands hidle op param align inLen, rfl⟩
  | inBuf _ hi b => exact ⟨hs.writeIn hi b, rfl⟩

/-- The registers in reset, with two fresh draws for the buffers (10_state.md R43, 70_reset_and_hazards.md R400, log 1). -/
theorem inv_of_reset {P : Params} (hlegal : P.legal) (rst : Bool) (events : List HostEvent) (v : Word) (turn n : Nat) :
    { State.reset with
      cfg := P, rst := rst, events := events, rdata := v, turn := turn,
      inDraw := n, outDraw := n + 1, draws := n + 2 }.Inv where
  cfgLegal := hlegal
  buffers :=
    { inWf := List.Pairwise.nil
      outWf := List.Pairwise.nil
      inBound := nofun
      outBound := nofun
      outLenBound := Nat.zero_le _
      inDrawn := Nat.lt_add_of_pos_right (by decide)
      outDrawn := Nat.lt_succ_self _
      result := fun _ _ => rfl }
  registers :=
    { noError := fun _ => ⟨rfl, rfl⟩
      someError := nofun
      infoMode := (by decide : paramMode 0 ≠ 3)
      quiet := fun h => absurd rfl h
      latches := fun h => absurd rfl h
      resetIdle := fun _ => rfl }
  working := workInv_of_idle rfl (by decide : Work.init.rc.bit ≤ 7)

/-- Releasing the reset input keeps the invariant (70_reset_and_hazards.md R400). -/
theorem State.Inv.releaseReset (hs : s.Inv) : s.releaseReset.Inv where
  cfgLegal := hs.cfgLegal
  buffers := { hs.buffers with inWf := hs.buffers.inWf }
  registers := { hs.registers with resetIdle := nofun }
  working := { hs.working with bitIndex := hs.working.bitIndex }

/-- An event from outside keeps the invariant and the parameters. -/
theorem inv_of_hostStep (hs : s.Inv) {e : HostEvent} {t : State} (h : hostStep e s = .next t) :
    t.Inv ∧ t.cfg = s.cfg := by
  cases e with
  | reset level =>
    cases level <;> cases h
    · exact ⟨hs.releaseReset, rfl⟩
    · exact ⟨inv_of_reset hs.cfgLegal true s.events s.rdata s.turn s.draws, rfl⟩
  | access a =>
    obtain hrst | hrst := Bool.eq_false_or_eq_true s.rst
    · cases (hostStep_access_in_reset hrst a).symm.trans h
    · cases (hostStep_access hrst a).symm.trans h
      exact inv_of_hostAccess hs hrst a

end

/-- Settles O8: the reset state is what the reset input leaves, with the block's own parameters. -/
theorem resetMeetsTheInvariant : Obligations.ResetMeetsTheInvariant := by
  unfold Obligations.ResetMeetsTheInvariant
  exact inv_of_reset (P := Config.hw) (by decide) false [] 0 0 0

/-- Settles O9: the engine's move and the host's events keep the invariant, after the step has taken its turn. -/
theorem stepKeepsTheInvariant : Obligations.StepKeepsTheInvariant := by
  unfold Obligations.StepKeepsTheInvariant
  intro s t hs hstep
  cases hevents : s.events with
  | nil =>
    rw [step_of_no_events hevents] at hstep
    exact inv_of_engineStep hs hstep
  | cons e rest =>
    rw [step_of_events hevents] at hstep
    have hturn := fun events => hs.hostFields s.irqEn s.proto events s.rdata (s.turn + 1) (le_refl s.draws)
    split_ifs at hstep
    · exact inv_of_hostStep (hturn rest) hstep
    · exact inv_of_engineStep (hturn s.events) hstep

end Sys2Proof.Machine
end

section
/-! SUPPORT. The matcher's candidates and the choice it makes at a position (45_codec_b_matcher.md R321 to R328). -/
namespace Sys2Proof.Machine

/-! ### The reach of a candidate -/

section
variable {ok : Nat → Bool} {m j : Nat}

theorem runLen_le (ok : Nat → Bool) (m j : Nat) : runLen ok m j ≤ m := by
  induction m generalizing j with
  | zero => exact le_rfl
  | succ m ih =>
    rw [runLen]
    split_ifs
    · exact Nat.succ_le_succ (ih _)
    · exact Nat.zero_le _

/-- The condition holds all along the run. -/
theorem ok_of_lt_runLen {k : Nat} (hk : k < runLen ok m j) : ok (j + k) = true := by
  induction m generalizing j k with
  | zero => cases hk
  | succ m ih =>
    rw [runLen] at hk
    split_ifs at hk with hok
    · cases k with
      | zero => exact hok
      | succ k =>
        rw [← Nat.succ_add_eq_add_succ]
        exact ih (Nat.lt_of_succ_lt_succ hk)
    · cases hk

/-- Where the run ends before its room does, the condition fails. -/
theorem runLen_stop (ok : Nat → Bool) (m j : Nat) : runLen ok m j = m ∨ ok (j + runLen ok m j) = false := by
  induction m generalizing j with
  | zero => exact .inl rfl
  | succ m ih =>
    rw [runLen]
    split_ifs with hok
    · refine (ih (j + 1)).imp (congrArg Nat.succ) fun h => ?_
      rwa [Nat.add_right_comm] at h
    · exact .inr (by simpa using hok)

/-- The run is the only length with these properties. -/
theorem eq_runLen {len : Nat} (hroom : len ≤ m) (hok : ∀ k, k < len → ok k = true) (hstop : len = m ∨ ok len = false) :
    len = runLen ok m 0 := by
  have hle := runLen_le ok m 0
  have hend := runLen_stop ok m 0
  rw [Nat.zero_add] at hend
  rcases Nat.lt_trichotomy len (runLen ok m 0) with hlt | heq | hgt
  · have htrue := ok_of_lt_runLen hlt
    rw [Nat.zero_add] at htrue
    rcases hstop with h | h
    · omega
    · cases htrue.symm.trans h
  · exact heq
  · rcases hend with h | h
    · omega
    · cases (hok _ hgt).symm.trans h

end

/-! ### The candidates at a position -/

section
variable {P : Params} {data : List Byte} {i : Nat}

/-- A candidate is considered at its position and reaches as far as its condition holds (45_codec_b_matcher.md R323). -/
theorem isCandidate_iff {ok : Nat → Bool} {body : Body} (hok : ∀ j, ok j = true ↔ body.Covers data i j) {len pos : Nat} :
    IsCandidate P data i { body := body, len := len, pos := pos } ↔
      pos = i ∧ body.Offered P data i ∧ 1 ≤ len ∧ len = runLen ok (roomAt data i) 0 := by
  have hroomAt : roomAt data i = min 1024 (data.length - i) := rfl
  constructor
  · rintro ⟨hpos, hoffered, hnonempty, ⟨hmax, hroom⟩, hcovers, hlongest⟩
    dsimp only at *
    refine ⟨hpos, hoffered, hnonempty, eq_runLen (by omega) (fun k hk => (hok k).2 (hcovers k hk)) ?_⟩
    rcases hlongest with h | h | h
    · exact .inl (by omega)
    · exact .inl (by omega)
    · exact .inr (by rwa [← hok, Bool.not_eq_true] at h)
  · rintro ⟨hpos, hoffered, hnonempty, hlen⟩
    have hle := runLen_le ok (roomAt data i) 0
    have hstop := runLen_stop ok (roomAt data i) 0
    rw [Nat.zero_add, ← hlen] at hstop
    refine ⟨hpos, hoffered, hnonempty, ⟨?_, ?_⟩, fun k hk => ?_, ?_⟩ <;> dsimp only at *
    · omega
    · omega
    · rw [hlen] at hk
      have htrue := ok_of_lt_runLen hk
      rwa [Nat.zero_add, hok] at htrue
    · rcases hstop with h | h
      · omega
      · exact .inr (.inr (by rw [← hok, h]; decide))

/-- A run whose first byte meets the condition is not empty. -/
theorem one_le_runLen {ok : Nat → Bool} (hi : i < data.length) (hok : ok 0 = true) : 1 ≤ runLen ok (roomAt data i) 0 := by
  have hroomAt : roomAt data i = min 1024 (data.length - i) := rfl
  obtain ⟨m, hm⟩ : ∃ m, roomAt data i = m + 1 := ⟨roomAt data i - 1, by omega⟩
  rw [hm, runLen, if_pos hok]
  exact Nat.le_add_left 1 _

/-- The ZERO candidate (45_codec_b_matcher.md R323). -/
def zeroCandidates (data : List Byte) (i : Nat) : List Cmd :=
  if byteAt data i = 0 then
    [{ body := .zero, len := runLen (fun j => byteAt data (i + j) == 0) (roomAt data i) 0, pos := i }]
  else []

/-- The ITER candidate (45_codec_b_matcher.md R323). -/
def iterCandidates (data : List Byte) (i : Nat) : List Cmd :=
  [{ body := .iter (byteAt data i)
     len := runLen (fun j => byteAt data (i + j) == byteAt data i) (roomAt data i) 0, pos := i }]

/-- The ALT candidate (45_codec_b_matcher.md R323). -/
def altCandidates (data : List Byte) (i : Nat) : List Cmd :=
  if 2 ≤ roomAt data i then
    [{ body := .alt (byteAt data i) (byteAt data (i + 1))
       len := runLen (fun j => byteAt data (i + j) == byteAt data (i + j % 2)) (roomAt data i) 0, pos := i }]
  else []

/-- The copy candidates of a kind (45_codec_b_matcher.md R325). -/
def copyCandidates (P : Params) (data : List Byte) (kind : CopyKind) (i : Nat) : List Cmd :=
  (sources P i).filterMap (copyCandidate data kind i)

theorem candidates_eq (P : Params) (data : List Byte) (i : Nat) :
    candidates P data i = zeroCandidates data i ++ iterCandidates data i ++ altCandidates data i ++
      copyCandidates P data .rep i ++ copyCandidates P data .flip i ++ copyCandidates P data .reverse i := rfl

theorem mem_zeroCandidates (hi : i < data.length) {c : Cmd} :
    c ∈ zeroCandidates data i ↔ c.body = .zero ∧ IsCandidate P data i c := by
  have hok : ∀ j, (byteAt data (i + j) == 0) = true ↔ Body.zero.Covers data i j := fun j => beq_iff_eq
  obtain ⟨body, len, pos⟩ := c
  unfold zeroCandidates
  split_ifs with hzero
  · rw [List.mem_singleton, Cmd.mk.injEq]
    refine and_congr_right fun hbody => ?_
    subst hbody
    rw [isCandidate_iff hok]
    have hpos := one_le_runLen (ok := fun j => byteAt data (i + j) == 0) hi ((hok 0).2 hzero)
    constructor
    · rintro ⟨rfl, rfl⟩
      exact ⟨rfl, trivial, hpos, rfl⟩
    · rintro ⟨hpos, -, -, hlen⟩
      exact ⟨hlen, hpos⟩
  · refine iff_of_false List.not_mem_nil ?_
    rintro ⟨hbody, hc⟩
    dsimp only at hbody
    subst hbody
    exact hzero (hc.covers 0 hc.nonempty)

theorem mem_iterCandidates (hi : i < data.length) {c : Cmd} :
    c ∈ iterCandidates data i ↔ (∃ b, c.body = .iter b) ∧ IsCandidate P data i c := by
  have hok : ∀ j, (byteAt data (i + j) == byteAt data i) = true ↔ (Body.iter (byteAt data i)).Covers data i j :=
    fun j => beq_iff_eq
  have hpos := one_le_runLen (ok := fun j => byteAt data (i + j) == byteAt data i) hi ((hok 0).2 rfl)
  obtain ⟨body, len, pos⟩ := c
  rw [iterCandidates, List.mem_singleton, Cmd.mk.injEq]
  constructor
  · rintro ⟨rfl, rfl, rfl⟩
    exact ⟨⟨_, rfl⟩, (isCandidate_iff hok).2 ⟨rfl, rfl, hpos, rfl⟩⟩
  · rintro ⟨⟨b, rfl⟩, hc⟩
    obtain rfl : b = byteAt data i := hc.offered
    obtain ⟨hpos, -, -, hlen⟩ := (isCandidate_iff hok).1 hc
    exact ⟨rfl, hlen, hpos⟩

theorem mem_altCandidates (hi : i < data.length) {c : Cmd} :
    c ∈ altCandidates data i ↔ (∃ a b, c.body = .alt a b) ∧ IsCandidate P data i c := by
  have hok : ∀ j, (byteAt data (i + j) == byteAt data (i + j % 2)) = true ↔
      (Body.alt (byteAt data i) (byteAt data (i + 1))).Covers data i j := fun j => by
    rcases Nat.mod_two_eq_zero_or_one j with h | h <;> simp [Body.Covers, byteAt, h]
  have hroomAt : roomAt data i = min 1024 (data.length - i) := rfl
  have hpos := one_le_runLen (ok := fun j => byteAt data (i + j) == byteAt data (i + j % 2)) hi (beq_self_eq_true _)
  obtain ⟨body, len, pos⟩ := c
  unfold altCandidates
  split_ifs with htwo
  · rw [List.mem_singleton, Cmd.mk.injEq]
    constructor
    · rintro ⟨rfl, rfl, rfl⟩
      exact ⟨⟨_, _, rfl⟩, (isCandidate_iff hok).2 ⟨rfl, ⟨by omega, rfl, rfl⟩, hpos, rfl⟩⟩
    · rintro ⟨⟨a, b, rfl⟩, hc⟩
      obtain ⟨-, rfl, rfl⟩ := hc.offered
      obtain ⟨hpos, -, -, hlen⟩ := (isCandidate_iff hok).1 hc
      exact ⟨rfl, hlen, hpos⟩
  · refine iff_of_false List.not_mem_nil ?_
    rintro ⟨⟨a, b, rfl⟩, hc⟩
    obtain ⟨hlen, -, -⟩ := hc.offered
    omega

theorem mem_sources {p : Nat} : p ∈ sources P i ↔ p < i ∧ i - p ≤ P.scanWindow := by
  rw [sources, List.mem_map]
  constructor
  · rintro ⟨k, hk, rfl⟩
    rw [List.mem_range] at hk
    omega
  · rintro ⟨hlt, hwindow⟩
    exact ⟨i - 1 - p, List.mem_range.2 (by omega), by omega⟩

/-- A source is in reach when its offset can be encoded (45_codec_b_matcher.md R322). -/
theorem offsetCost_eq_none {p : Nat} (hp : p < i) : offsetCost i p = none ↔ ¬ (i - p ≤ 127 ∨ p ≤ 0x7FFF) := by
  have hpos : 1 ≤ i - p := by omega
  by_cases hrel : i - p ≤ 127
  · rw [offsetCost, if_pos ⟨hpos, hrel⟩]
    simp [hrel]
  · have hfar : ¬ (1 ≤ i - p ∧ i - p ≤ Config.relMax) := fun h => hrel h.2
    rw [offsetCost, if_neg hfar]
    by_cases habs : p ≤ 0x7FFF <;> simp [hrel, habs, Config.absMax]

theorem copyMatches_iff (kind : CopyKind) (p j : Nat) :
    copyMatches data kind i p j = true ↔ (Body.copy kind p).Covers data i j := by
  cases kind <;> simp [copyMatches, Body.Covers, byteAt]

theorem copyCandidate_eq_some {kind : CopyKind} {p : Nat} {c : Cmd} (hp : p < i) :
    copyCandidate data kind i p = some c ↔ (i - p ≤ 127 ∨ p ≤ 0x7FFF) ∧ c.body = .copy kind p ∧ c.pos = i ∧
      1 ≤ c.len ∧ c.len = runLen (copyMatches data kind i p) (roomAt data i) 0 := by
  have hnone := offsetCost_eq_none hp
  obtain ⟨body, len, pos⟩ := c
  unfold copyCandidate
  cases hcost : offsetCost i p with
  | none =>
    rw [hcost] at hnone
    refine iff_of_false nofun ?_
    rintro ⟨hreach, -⟩
    exact hnone.1 rfl hreach
  | some cost =>
    have hreach : i - p ≤ 127 ∨ p ≤ 0x7FFF := by
      by_contra h
      cases hcost.symm.trans (hnone.2 h)
    cases hlen : runLen (copyMatches data kind i p) (roomAt data i) 0 with
    | zero => exact iff_of_false nofun (by rintro ⟨-, -, -, hpos, h⟩; omega)
    | succ n =>
      simp only [Option.some.injEq, Cmd.mk.injEq]
      constructor
      · rintro ⟨rfl, rfl, rfl⟩
        exact ⟨hreach, rfl, rfl, Nat.le_add_left 1 n, rfl⟩
      · rintro ⟨-, hbody, hpos, -, hlen⟩
        exact ⟨hbody.symm, hlen.symm, hpos.symm⟩

theorem mem_copyCandidates {kind : CopyKind} {c : Cmd} :
    c ∈ copyCandidates P data kind i ↔ (∃ p, c.body = .copy kind p) ∧ IsCandidate P data i c := by
  obtain ⟨body, len, pos⟩ := c
  rw [copyCandidates, List.mem_filterMap]
  constructor
  · rintro ⟨p, hp, hcand⟩
    obtain ⟨hlt, hwindow⟩ := mem_sources.1 hp
    obtain ⟨hreach, rfl, rfl, hpos, hlen⟩ := (copyCandidate_eq_some hlt).1 hcand
    exact ⟨⟨p, rfl⟩, (isCandidate_iff (copyMatches_iff kind p)).2 ⟨rfl, ⟨hlt, hwindow, hreach⟩, hpos, hlen⟩⟩
  · rintro ⟨⟨p, rfl⟩, hc⟩
    obtain ⟨hpos, ⟨hlt, hwindow, hreach⟩, hnonempty, hlen⟩ := (isCandidate_iff (copyMatches_iff kind p)).1 hc
    exact ⟨p, mem_sources.2 ⟨hlt, hwindow⟩, (copyCandidate_eq_some hlt).2 ⟨hreach, rfl, hpos, hnonempty, hlen⟩⟩

/-- The list holds the candidates and nothing else (45_codec_b_matcher.md R323, R325). -/
theorem mem_candidates (hi : i < data.length) {c : Cmd} : c ∈ candidates P data i ↔ IsCandidate P data i c := by
  simp only [candidates_eq, List.mem_append, mem_zeroCandidates (P := P) hi, mem_iterCandidates (P := P) hi,
    mem_altCandidates (P := P) hi, mem_copyCandidates, ← or_and_right, and_iff_right_iff_imp]
  intro hc
  cases hbody : c.body with
  | lit =>
    have hoffered := hc.offered
    rw [hbody] at hoffered
    exact hoffered.elim
  | copy kind p => cases kind <;> simp
  | _ => simp

/-! ### Their order -/

/-- A list in the order of 45_codec_b_matcher.md R324, of kinds before place `k`. -/
structure InOrder (k : Nat) (l : List Cmd) : Prop where
  pairwise : l.Pairwise Earlier
  before : ∀ c ∈ l, c.body.place < k

/-- The candidates of the next kind come after those so far. -/
theorem InOrder.append {k : Nat} {l m : List Cmd} (hl : InOrder k l) (hm : m.Pairwise Earlier)
    (hplace : ∀ c ∈ m, c.body.place = k) : InOrder (k + 1) (l ++ m) where
  pairwise := List.pairwise_append.2 ⟨hl.pairwise, hm, fun c hc d hd => .inl ((hl.before c hc).trans_eq (hplace d hd).symm)⟩
  before c hc := by
    rcases List.mem_append.1 hc with h | h
    · exact Nat.lt_succ_of_lt (hl.before c h)
    · exact Nat.lt_succ_of_le (hplace c h).le

theorem sources_pairwise (P : Params) (i : Nat) : (sources P i).Pairwise fun p q => q < p := by
  rw [sources, List.pairwise_map]
  refine List.pairwise_lt_range.imp_of_mem fun ha hb hlt => ?_
  rw [List.mem_range] at ha hb
  omega

/-- Copies of one kind stand with the nearest source first (45_codec_b_matcher.md R324, R325). -/
theorem copyCandidates_pairwise (P : Params) (data : List Byte) (kind : CopyKind) (i : Nat) :
    (copyCandidates P data kind i).Pairwise Earlier := by
  rw [copyCandidates, List.pairwise_filterMap]
  refine (sources_pairwise P i).imp_of_mem fun {p q} hp hq hlt c hc d hd => ?_
  obtain ⟨-, hbody, -⟩ := (copyCandidate_eq_some (mem_sources.1 hp).1).1 hc
  obtain ⟨-, hbody', -⟩ := (copyCandidate_eq_some (mem_sources.1 hq).1).1 hd
  refine .inr ⟨?_, ?_⟩ <;> rw [hbody, hbody']
  · cases kind <;> rfl
  · exact hlt

theorem candidates_pairwise (hi : i < data.length) : (candidates P data i).Pairwise Earlier := by
  have hsingle : ∀ c : Cmd, [c].Pairwise Earlier := List.pairwise_singleton _
  have hzero : (zeroCandidates data i).Pairwise Earlier := by
    unfold zeroCandidates
    split_ifs
    · exact hsingle _
    · exact .nil
  have halt : (altCandidates data i).Pairwise Earlier := by
    unfold altCandidates
    split_ifs
    · exact hsingle _
    · exact .nil
  have hcopy : ∀ kind c, c ∈ copyCandidates P data kind i → c.body.place = (Body.copy kind 0).place := fun kind c hc => by
    obtain ⟨⟨p, hbody⟩, -⟩ := mem_copyCandidates.1 hc
    rw [hbody]
    cases kind <;> rfl
  have hnone : InOrder 1 [] := ⟨.nil, nofun⟩
  have hzeros := hnone.append hzero fun c hc => by
    obtain ⟨hbody, -⟩ := (mem_zeroCandidates (P := P) hi).1 hc
    rw [hbody]
    rfl
  have hiters := hzeros.append (hsingle _) fun c hc => by
    obtain ⟨⟨b, hbody⟩, -⟩ := (mem_iterCandidates (P := P) hi).1 hc
    rw [hbody]
    rfl
  have halts := hiters.append halt fun c hc => by
    obtain ⟨⟨a, b, hbody⟩, -⟩ := (mem_altCandidates (P := P) hi).1 hc
    rw [hbody]
    rfl
  have hreps := halts.append (copyCandidates_pairwise P data .rep i) (hcopy .rep)
  have hflips := hreps.append (copyCandidates_pairwise P data .flip i) (hcopy .flip)
  exact (hflips.append (copyCandidates_pairwise P data .reverse i) (hcopy .reverse)).pairwise

/-! ### The best candidate -/

/-- `b` is in the list, none saves more, and of those that save as much it is the first (45_codec_b_matcher.md R324). -/
structure FirstBest (l : List Cmd) (b : Cmd) : Prop where
  mem : b ∈ l
  best : ∀ c ∈ l, savings c < savings b ∨ savings c = savings b ∧ (c = b ∨ Earlier b c)

/-- The search keeps the first best of what it has seen (45_codec_b_matcher.md R324). -/
theorem foldl_better {l : List Cmd} (hl : l.Pairwise Earlier) (hne : l ≠ []) :
    ∃ b, l.foldl better none = some b ∧ FirstBest l b := by
  induction l using List.reverseRecOn with
  | nil => exact absurd rfl hne
  | append_singleton l c ih =>
    obtain ⟨hl, -, hlast⟩ := List.pairwise_append.1 hl
    rw [List.foldl_append, List.foldl_cons, List.foldl_nil]
    rcases List.eq_nil_or_concat l with rfl | ⟨init, last, rfl⟩
    · refine ⟨c, rfl, List.mem_singleton_self c, fun d hd => .inr ?_⟩
      obtain rfl := List.mem_singleton.1 hd
      exact ⟨rfl, .inl rfl⟩
    obtain ⟨b, hb, hmem, hbest⟩ := ih hl (by simp)
    rw [hb, better]
    split_ifs with hmore
    · refine ⟨c, rfl, List.mem_append_right _ (List.mem_singleton_self c), fun d hd => ?_⟩
      rcases List.mem_append.1 hd with hd | hd
      · have hle := hbest d hd
        omega
      · exact .inr ⟨by rw [List.mem_singleton.1 hd], .inl (List.mem_singleton.1 hd)⟩
    · refine ⟨b, rfl, List.mem_append_left _ hmem, fun d hd => ?_⟩
      rcases List.mem_append.1 hd with hd | hd
      · exact hbest d hd
      · rw [List.mem_singleton.1 hd]
        refine (lt_or_eq_of_le (not_lt.1 hmore)).imp id fun h => ⟨h, .inr (hlast b hmem c (List.mem_singleton_self c))⟩

/-- `Best(i)` is the first best of the candidates, of which there is one (45_codec_b_matcher.md R324). -/
theorem bestAt_eq (P : Params) (hi : i < data.length) :
    ∃ b, bestAt P data i = some b ∧ IsCandidate P data i b ∧
      ∀ c, IsCandidate P data i c → savings c < savings b ∨ savings c = savings b ∧ (c = b ∨ Earlier b c) := by
  have hne : candidates P data i ≠ [] := by simp [candidates_eq, iterCandidates]
  obtain ⟨b, hb, hmem, hbest⟩ := foldl_better (candidates_pairwise (P := P) hi) hne
  exact ⟨b, hb, (mem_candidates hi).1 hmem, fun c hc => hbest c ((mem_candidates hi).2 hc)⟩

theorem bestSavings_of_eq {b : Cmd} (h : bestAt P data i = some b) : bestSavings P data i = savings b := by
  rw [bestSavings, h]
  rfl

/-- No candidate saves more than the best (45_codec_b_matcher.md R324). -/
theorem savings_le_bestSavings (hi : i < data.length) {c : Cmd} (hc : IsCandidate P data i c) :
    savings c ≤ bestSavings P data i := by
  obtain ⟨b, hb, -, hbest⟩ := bestAt_eq P hi
  have hle := hbest c hc
  rw [bestSavings_of_eq hb]
  omega

/-! ### What a command saves -/

theorem encodeBytes_length (i : Instr) : (encodeBytes i).length = (rowBits i + 7) / 8 := by
  rw [encodeBytes, pack_length, encode_length]

theorem rowBits_shortRow (kind len : Nat) : rowBits (shortRow kind len) = 8 := by
  rcases kind with _ | _ | _ | _ | _ | _ | kind <;> rfl

theorem rowBits_longRow (kind len : Nat) : rowBits (longRow kind len) = 16 := by
  rcases kind with _ | _ | _ | _ | _ | _ | kind <;> rfl

/-- `hdr(L)` is the length of the header (45_codec_b_matcher.md R321). -/
theorem encodeHeader_length (kind len : Nat) : (encodeHeader kind len).length = headerSize len := by
  rw [encodeHeader, encodeBytes_length, headerSize]
  split_ifs
  · rw [rowBits_shortRow]
  · rw [rowBits_longRow]

/-- `ocost` is the length of the offset (45_codec_b_matcher.md R322). -/
theorem encodeOffset_length {p : Nat} (hp : p < i) : (encodeOffset i p).length = (offsetCost i p).getD 2 := by
  have hpos : 1 ≤ i - p := by omega
  rw [encodeOffset, encodeBytes_length, offsetCost]
  by_cases hrel : i - p ≤ Config.relMax
  · rw [if_pos hrel, if_pos ⟨hpos, hrel⟩, rowBits, Option.getD_some]
  · rw [if_neg hrel, if_neg (hrel ∘ And.right), rowBits]
    split_ifs <;> simp

/-- A candidate saves its length less the bytes it is encoded in (45_codec_b_matcher.md R321). -/
theorem savings_eq {c : Cmd} (hc : IsCandidate P data i c) : savings c = (c.len : Int) - (encodeCmd data c).length := by
  have hpayload : (payloadBytes data c).length = payloadSize c := by
    have hoffered := hc.offered
    rw [payloadBytes, payloadSize]
    cases hbody : c.body with
    | lit =>
      rw [hbody] at hoffered
      exact hoffered.elim
    | copy kind p =>
      rw [hbody] at hoffered
      obtain ⟨hlt, -⟩ := hoffered
      exact encodeOffset_length (hc.atPos ▸ hlt)
    | _ => rfl
  rw [encodeCmd, List.length_append, hpayload, encodeHeader_length]
  rfl

/-! ### The choice at a position -/

/-- A literal run from length `lo` at `i` (45_codec_b_matcher.md R327). -/
structure LiteralRun (P : Params) (data : List Byte) (i lo len : Nat) : Prop where
  lower : lo ≤ len
  cap : len ≤ P.litCap
  room : i + len ≤ data.length
  worse : ∀ k, lo ≤ k → k < len → bestSavings P data (i + k) < P.litStop
  stop : i + len = data.length ∨ len = P.litCap ∨
    (i + len < data.length ∧ (P.litStop : Int) ≤ bestSavings P data (i + len))

theorem literalRun_literalLen {fuel lo : Nat} (hcap : lo ≤ P.litCap) (hroom : i + lo ≤ data.length)
    (hfuel : data.length ≤ i + lo + fuel) : LiteralRun P data i lo (literalLen P data i fuel lo) := by
  induction fuel generalizing lo with
  | zero => exact ⟨le_rfl, hcap, hroom, fun k hlo hhi => absurd hlo (not_le.2 hhi), .inl (le_antisymm hroom hfuel)⟩
  | succ fuel ih =>
    rw [literalLen]
    split_ifs with hmore
    · obtain ⟨hlt, hltcap, hworse⟩ := hmore
      obtain ⟨hlower, hcap', hroom', hworse', hstop⟩ := ih (lo := lo + 1) hltcap hlt (by omega)
      refine ⟨Nat.le_of_succ_le hlower, hcap', hroom', fun k hlo hhi => ?_, hstop⟩
      rcases Nat.eq_or_lt_of_le hlo with rfl | hlt
      · exact hworse
      · exact hworse' k hlt hhi
    · refine ⟨le_rfl, hcap, hroom, fun k hlo hhi => absurd hlo (not_le.2 hhi), ?_⟩
      by_contra hstop
      push Not at hstop
      obtain ⟨hne, hnecap, hless⟩ := hstop
      have hlt := lt_of_le_of_ne hroom hne
      exact hmore ⟨hlt, lt_of_le_of_ne hcap hnecap, hless hlt⟩

/-- What the matcher takes at a position (45_codec_b_matcher.md R326 to R328): the best candidate, or a literal run. -/
theorem chooseAt_cases (hlegal : P.legal) (hi : i < data.length) {b : Cmd} (hb : bestAt P data i = some b) :
    (0 ≤ savings b ∧ chooseAt P data i = b) ∨
      (savings b < 0 ∧ ∃ len, chooseAt P data i = { body := .lit, len := len, pos := i } ∧
        LiteralRun P data i 1 len) := by
  obtain ⟨-, -, -, hcap, -⟩ := hlegal
  simp only [chooseAt, hb]
  split_ifs with hless
  · exact .inr ⟨hless, _, rfl, literalRun_literalLen hcap hi (by omega)⟩
  · exact .inl ⟨not_lt.1 hless, rfl⟩

/-! ### The whole list -/

/-- The list takes the matcher's choice at each position from `i` to the end of the input (45_codec_b_matcher.md R328). -/
def Greedy (P : Params) (data : List Byte) : Nat → List Cmd → Prop
  | i, [] => i = data.length
  | i, c :: cs => i < data.length ∧ c = chooseAt P data i ∧ Greedy P data (i + c.len) cs

/-- The choice covers at least a byte and ends in the input. -/
theorem chooseAt_room (hlegal : P.legal) (hi : i < data.length) :
    1 ≤ (chooseAt P data i).len ∧ i + (chooseAt P data i).len ≤ data.length := by
  obtain ⟨b, hb, hcand, -⟩ := bestAt_eq P hi
  obtain ⟨-, h⟩ | ⟨-, len, h, hrun⟩ := chooseAt_cases hlegal hi hb <;> rw [h]
  · obtain ⟨-, hroom⟩ := hcand.room
    exact ⟨hcand.nonempty, hroom⟩
  · exact ⟨hrun.lower, hrun.room⟩

/-- The loop appends what is left of the list (45_codec_b_matcher.md R328). -/
theorem matchLoop_greedy (hlegal : P.legal) {fuel : Nat} {st : MatchState} (hroom : st.pos ≤ data.length)
    (hfuel : data.length ≤ st.pos + fuel) :
    ∃ l, Greedy P data st.pos l ∧ (matchLoop P data fuel st).cmds = st.cmds ++ l := by
  induction fuel generalizing st with
  | zero => exact ⟨[], le_antisymm hroom hfuel, (List.append_nil _).symm⟩
  | succ fuel ih =>
    rw [matchLoop]
    split_ifs with hmore
    · obtain ⟨hlen, hend⟩ := chooseAt_room hlegal hmore
      obtain ⟨l, hl, hcmds⟩ := ih
        (st := ⟨st.pos + (chooseAt P data st.pos).len, st.cmds ++ [chooseAt P data st.pos], bestAt P data st.pos⟩)
        hend (by dsimp only; omega)
      exact ⟨chooseAt P data st.pos :: l, ⟨hmore, rfl, hl⟩, by rw [hcmds, List.append_assoc]; rfl⟩
    · exact ⟨[], le_antisymm hroom (not_lt.1 hmore), (List.append_nil _).symm⟩

theorem greedy_matchAll (hlegal : P.legal) (data : List Byte) : Greedy P data 0 (matchAll P data) := by
  obtain ⟨l, hl, hcmds⟩ := matchLoop_greedy (P := P) (data := data) (fuel := data.length) (st := ⟨0, [], none⟩) hlegal
    (Nat.zero_le _) (Nat.le_add_left _ _)
  rw [matchAll, runMatcher, hcmds]
  exact hl

theorem Greedy.sum {l : List Cmd} (h : Greedy P data i l) : i + (l.map Cmd.len).sum = data.length := by
  induction l generalizing i with
  | nil => exact h
  | cons c cs ih =>
    obtain ⟨-, -, hcs⟩ := h
    rw [List.map_cons, List.sum_cons, ← Nat.add_assoc]
    exact ih hcs

theorem Greedy.append_cons {before after : List Cmd} {c : Cmd} (h : Greedy P data i (before ++ c :: after)) :
    c = chooseAt P data (i + (before.map Cmd.len).sum) := by
  induction before generalizing i with
  | nil =>
    obtain ⟨-, hc, -⟩ := h
    exact hc
  | cons b bs ih =>
    obtain ⟨-, -, hbs⟩ := h
    rw [List.map_cons, List.sum_cons, ← Nat.add_assoc]
    exact ih hbs

end

/-- Settles O48: the search keeps the first best candidate, and the list is the choices at the positions they lead to. -/
theorem matcherTakesTheFirstBest : Obligations.MatcherTakesTheFirstBest := by
  unfold Obligations.MatcherTakesTheFirstBest
  intro P data hlegal
  refine ⟨fun i hi => ?choice, ?sum, fun before c after h => ?list⟩
  case choice =>
    obtain ⟨b, hb, hcand, hbest⟩ := bestAt_eq P hi
    have hcases := chooseAt_cases hlegal hi hb
    refine ⟨b, hcand, fun c hc => ⟨savings_eq hc, hbest c hc⟩, fun hsaves => ?_, fun hworse => ?_⟩
    · obtain ⟨-, h⟩ := hcases.resolve_right fun h => not_lt.2 hsaves h.1
      exact h
    · obtain ⟨-, len, hchoose, hrun⟩ := hcases.resolve_left fun h => not_lt.2 h.1 hworse
      refine ⟨len, hchoose, hrun.lower, hrun.cap, hrun.room, fun k hlo hhi c hc => ?_, ?_⟩
      · have hroom := hrun.room
        exact (savings_le_bestSavings (by omega) hc).trans_lt (hrun.worse k hlo hhi)
      · refine hrun.stop.imp id (Or.imp id ?_)
        rintro ⟨hlt, hstop⟩
        obtain ⟨b', hb', hcand', -⟩ := bestAt_eq P hlt
        exact ⟨b', hcand', by rwa [← bestSavings_of_eq hb']⟩
  case sum =>
    have hsum := (greedy_matchAll hlegal data).sum
    rwa [Nat.zero_add] at hsum
  case list =>
    have hgreedy := greedy_matchAll hlegal data
    rw [h] at hgreedy
    have hc := hgreedy.append_cons
    rwa [Nat.zero_add] at hc

end Sys2Proof.Machine
end

section
/-! SUPPORT. The optimizer (45_codec_b_matcher.md R330 to R336): what it leaves is settled, and what is settled it keeps. -/
namespace Sys2Proof.Machine

/-! ### Commands that rebuild the input -/

/-- A command whose bytes, taken at its position, are the input's (45_codec_b_matcher.md R322, R323). -/
structure Cmd.Valid (data : List Byte) (c : Cmd) : Prop where
  nonempty : 1 ≤ c.len
  bounded : c.len ≤ Config.maxLen
  room : c.pos + c.len ≤ data.length
  covers : c.body ≠ .lit → ∀ j, j < c.len → c.body.Covers data c.pos j
  reach : ∀ kind p, c.body = .copy kind p → p < c.pos ∧ (c.pos - p ≤ 127 ∨ p ≤ 0x7FFF)

/-- The list covers the input from `i` to `k` without gaps (45_codec_b_matcher.md R328). -/
def Tiles (data : List Byte) : Nat → List Cmd → Nat → Prop
  | i, [], k => i = k
  | i, c :: cs, k => c.pos = i ∧ c.Valid data ∧ Tiles data (i + c.len) cs k

section
variable {P : Params} {data : List Byte}

theorem IsCandidate.valid {i : Nat} {c : Cmd} (h : IsCandidate P data i c) : c.Valid data := by
  obtain ⟨hpos, hoffered, hnonempty, ⟨hmax, hroom⟩, hcovers, -⟩ := h
  subst hpos
  refine ⟨hnonempty, hmax, hroom, fun _ => hcovers, fun kind p hbody => ?_⟩
  rw [hbody] at hoffered
  obtain ⟨hlt, -, hreach⟩ := hoffered
  exact ⟨hlt, hreach⟩

theorem valid_lit {pos len : Nat} (hnonempty : 1 ≤ len) (hbounded : len ≤ Config.maxLen) (hroom : pos + len ≤ data.length) :
    Cmd.Valid data { body := .lit, len := len, pos := pos } :=
  ⟨hnonempty, hbounded, hroom, fun h => absurd rfl h, nofun⟩

theorem chooseAt_valid (hlegal : P.legal) {i : Nat} (hi : i < data.length) :
    (chooseAt P data i).pos = i ∧ (chooseAt P data i).Valid data := by
  obtain ⟨b, hb, hcand, -⟩ := bestAt_eq P hi
  obtain ⟨-, h⟩ | ⟨-, len, h, hrun⟩ := chooseAt_cases hlegal hi hb <;> rw [h]
  · exact ⟨hcand.atPos, hcand.valid⟩
  · obtain ⟨-, -, -, -, hcap, -⟩ := hlegal
    exact ⟨rfl, valid_lit hrun.lower (hrun.cap.trans hcap) hrun.room⟩

theorem Greedy.tiles (hlegal : P.legal) {i : Nat} {l : List Cmd} (h : Greedy P data i l) : Tiles data i l data.length := by
  induction l generalizing i with
  | nil => exact h
  | cons c cs ih =>
    obtain ⟨hi, rfl, hcs⟩ := h
    obtain ⟨hpos, hvalid⟩ := chooseAt_valid hlegal hi
    exact ⟨hpos, hvalid, ih hcs⟩

theorem tiles_append {i k : Nat} {l m : List Cmd} :
    Tiles data i (l ++ m) k ↔ ∃ j, Tiles data i l j ∧ Tiles data j m k := by
  induction l generalizing i with
  | nil => exact ⟨fun h => ⟨i, rfl, h⟩, fun ⟨j, hj, h⟩ => hj ▸ h⟩
  | cons c cs ih =>
    simp only [List.cons_append, Tiles, ih]
    exact ⟨fun ⟨hpos, hvalid, j, hj, h⟩ => ⟨j, ⟨hpos, hvalid, hj⟩, h⟩,
      fun ⟨j, ⟨hpos, hvalid, hj⟩, h⟩ => ⟨hpos, hvalid, j, hj, h⟩⟩

/-- What the last command adds. -/
theorem tiles_concat {i k : Nat} {l : List Cmd} {c : Cmd} :
    Tiles data i (l ++ [c]) k ↔ Tiles data i l c.pos ∧ c.Valid data ∧ c.pos + c.len = k := by
  rw [tiles_append]
  constructor
  · rintro ⟨j, hl, rfl, hvalid, hk⟩
    exact ⟨hl, hvalid, hk⟩
  · rintro ⟨hl, hvalid, hk⟩
    exact ⟨c.pos, hl, rfl, hvalid, hk⟩

/-! ### What two commands merge to -/

/-- What a copy is absorbed by is a literal (45_codec_b_matcher.md R331). -/
theorem absorbs_iff {x c : Cmd} :
    absorbs x c = true ↔ x.body = .lit ∧ c.body.isCopy = true ∧ cmdSize c = c.len ∧ x.len + c.len ≤ Config.maxLen := by
  simp only [absorbs, Bool.and_eq_true, beq_iff_eq, decide_eq_true_eq, and_assoc]

theorem absorbs_eq_false_of_not_copy {x c : Cmd} (h : c.body.isCopy = false) : absorbs x c = false := by
  rw [← Bool.not_eq_true, absorbs_iff]
  rintro ⟨-, hcopy, -⟩
  cases h.symm.trans hcopy

/-- Commands of the same kind have the same payload, and are no copies (45_codec_b_matcher.md R332). -/
theorem sameKind_body {x c : Cmd} (h : sameKind x c = true) :
    c.body = x.body ∧ (x.body = .lit ∨ x.body = .zero ∨ ∃ b, x.body = .iter b) := by
  unfold sameKind at h
  split at h
  case h_1 hx hc => exact ⟨hc.trans hx.symm, .inl hx⟩
  case h_2 a b hx hc =>
    rw [hx, hc, eq_of_beq h]
    exact ⟨rfl, .inr (.inr ⟨b, rfl⟩)⟩
  case h_3 hx hc => exact ⟨hc.trans hx.symm, .inr (.inl hx)⟩
  case h_4 => cases h

theorem isCopy_of_sameKind {x c : Cmd} (h : sameKind x c = true) : c.body.isCopy = false := by
  obtain ⟨hbody, hx⟩ := sameKind_body h
  rw [hbody]
  rcases hx with hx | hx | ⟨b, hx⟩ <;> rw [hx] <;> rfl

/-- SameKind looks at the body and the position of what follows, and not at its length (45_codec_b_matcher.md R332). -/
theorem sameKind_congr {x c d : Cmd} (hbody : d.body = c.body) (hpos : d.pos = c.pos) : sameKind x d = sameKind x c := by
  unfold sameKind
  rw [hbody, hpos]

/-- A part of what two neighbours of the same kind cover (45_codec_b_matcher.md R333, R334). -/
theorem valid_of_sameKind {x c : Cmd} (hx : x.Valid data) (hc : c.Valid data) (hsame : sameKind x c = true)
    (hnext : c.pos = x.pos + x.len) {pos len : Nat} (hlo : x.pos ≤ pos) (hhi : pos + len ≤ c.pos + c.len)
    (hnonempty : 1 ≤ len) (hbounded : len ≤ Config.maxLen) :
    Cmd.Valid data { body := x.body, len := len, pos := pos } := by
  have hroom : pos + len ≤ data.length := hhi.trans hc.room
  obtain ⟨hbody, hkind⟩ := sameKind_body hsame
  have hxc := hx.covers
  have hcc := hc.covers
  rw [hbody] at hcc
  have hall : ∀ v, (∀ j, j < x.len → data.getD (x.pos + j) 0 = v) → (∀ j, j < c.len → data.getD (c.pos + j) 0 = v) →
      ∀ j, j < len → data.getD (pos + j) 0 = v := fun v hfirst hsecond j hj => by
    by_cases hin : pos + j < c.pos
    · have h := hfirst (pos + j - x.pos) (by omega)
      rwa [Nat.add_sub_cancel' (by omega)] at h
    · have h := hsecond (pos + j - c.pos) (by omega)
      rwa [Nat.add_sub_cancel' (by omega)] at h
  rcases hkind with hkind | hkind | ⟨b, hkind⟩ <;> rw [hkind] at hxc hcc ⊢
  · exact valid_lit hnonempty hbounded hroom
  · exact ⟨hnonempty, hbounded, hroom, fun _ => hall 0 (hxc nofun) (hcc nofun), nofun⟩
  · exact ⟨hnonempty, hbounded, hroom, fun _ => hall b (hxc nofun) (hcc nofun), nofun⟩

/-! ### One turn of the optimizer -/

/-- Everything one turn can do with a command that is not the first (45_codec_b_matcher.md R330, R333, R334): absorb it,
merge it, split the two at the largest length, or add it. -/
theorem optimizeStep_cons_cases (x c : Cmd) (out : List Cmd) :
    ((absorbs x c = true ∨ sameKind x c = true ∧ x.len + c.len ≤ Config.maxLen) ∧
      optimizeStep (x :: out) c = { x with len := x.len + c.len } :: out) ∨
    (sameKind x c = true ∧ Config.maxLen < x.len + c.len ∧ optimizeStep (x :: out) c =
      { c with len := x.len + c.len - Config.maxLen, pos := x.pos + Config.maxLen } ::
        { x with len := Config.maxLen } :: out) ∨
    (absorbs x c = false ∧ sameKind x c = false ∧ optimizeStep (x :: out) c = c :: x :: out) := by
  rw [optimizeStep]
  split_ifs with habsorbs hsame hfits
  · exact .inl ⟨.inl habsorbs, rfl⟩
  · exact .inl ⟨.inr ⟨hsame, hfits⟩, rfl⟩
  · exact .inr (.inl ⟨hsame, not_le.1 hfits, rfl⟩)
  · exact .inr (.inr ⟨by simpa using habsorbs, by simpa using hsame, rfl⟩)

/-- A turn goes on covering the input without gaps. -/
theorem optimizeStep_tiles {i : Nat} {out : List Cmd} {c : Cmd} (hout : Tiles data i out.reverse c.pos)
    (hc : c.Valid data) : Tiles data i (optimizeStep out c).reverse (c.pos + c.len) := by
  cases out with
  | nil =>
    have hi : i = c.pos := hout
    exact ⟨hi.symm, hc, by rw [hi]; rfl⟩
  | cons x out =>
    rw [List.reverse_cons, tiles_concat] at hout
    obtain ⟨hout', hx, hnext⟩ := hout
    have hsplit : ∀ pos len, x.pos ≤ pos → pos + len ≤ c.pos + c.len → 1 ≤ len → len ≤ Config.maxLen →
        sameKind x c = true → Cmd.Valid data { body := x.body, len := len, pos := pos } :=
      fun pos len hlo hhi hne hle hsame => valid_of_sameKind hx hc hsame hnext.symm hlo hhi hne hle
    have hxlen := hx.nonempty
    have hclen := hc.nonempty
    obtain ⟨hmerge, h⟩ | ⟨hsame, hover, h⟩ | ⟨-, -, h⟩ := optimizeStep_cons_cases x c out <;> rw [h, List.reverse_cons]
    · refine tiles_concat.2 ⟨hout', ?_, by dsimp only; omega⟩
      rcases hmerge with habsorbs | ⟨hsame, hfits⟩
      · obtain ⟨hlit, -, -, hfits⟩ := absorbs_iff.1 habsorbs
        rw [hlit]
        exact valid_lit (by omega) hfits (by have := hc.room; omega)
      · exact hsplit _ _ le_rfl (by omega) (by omega) hfits hsame
    · obtain ⟨hbody, -⟩ := sameKind_body hsame
      have hxmax := hx.bounded
      have hcmax := hc.bounded
      have hmax : Config.maxLen = 1024 := rfl
      rw [List.reverse_cons]
      refine tiles_concat.2 ⟨tiles_concat.2 ⟨hout', hsplit _ _ le_rfl (by omega) (by omega) le_rfl hsame, rfl⟩, ?_, ?_⟩
      · rw [hbody]
        exact hsplit _ _ (by omega) (by omega) (by omega) (by omega) hsame
      · dsimp only
        omega
    · rw [List.reverse_cons]
      exact tiles_concat.2 ⟨tiles_concat.2 ⟨hout', hx, hnext⟩, hc, rfl⟩

/-- The optimizer's list covers what the list before it covers (45_codec_b_matcher.md R330). -/
theorem optimize_tiles {l : List Cmd} (h : Tiles data 0 l data.length) : Tiles data 0 (optimize l) data.length := by
  have hfold : ∀ (l : List Cmd) (out : List Cmd) (i k : Nat), Tiles data 0 out.reverse i → Tiles data i l k →
      Tiles data 0 (l.foldl optimizeStep out).reverse k := by
    intro l
    induction l with
    | nil => exact fun out i k hout hl => hl ▸ hout
    | cons c cs ih =>
      rintro out i k hout ⟨rfl, hc, hcs⟩
      exact ih _ _ k (optimizeStep_tiles hout hc) hcs
  exact hfold l [] 0 _ rfl h

/-! ### Settled lists -/

/-- Neighbours that the optimizer has nothing left to do with (45_codec_b_matcher.md R335). -/
def Settled (x c : Cmd) : Prop :=
  absorbs x c = false ∧ (sameKind x c = true → x.len = 1024 ∧ 1024 < x.len + c.len)

/-- What follows may change its length, where it is no copy. -/
theorem Settled.of_length {y x x' : Cmd} (h : Settled y x) (hbody : x'.body = x.body) (hpos : x'.pos = x.pos)
    (hlen : 0 < x.len → 0 < x'.len) (hcopy : x'.body.isCopy = false) : Settled y x' := by
  obtain ⟨-, hsame⟩ := h
  refine ⟨absorbs_eq_false_of_not_copy hcopy, fun hsame' => ?_⟩
  rw [sameKind_congr hbody hpos] at hsame'
  obtain ⟨hmax, hover⟩ := hsame hsame'
  have hpos := hlen (by omega)
  omega

/-- A settled list whose last command, which stands first here, is changed. -/
theorem isChain_settled_replace {x x' : Cmd} {out : List Cmd} (h : (x :: out).IsChain fun c x => Settled x c)
    (himp : ∀ y, Settled y x → Settled y x') : (x' :: out).IsChain fun c x => Settled x c := by
  cases out with
  | nil => exact .singleton x'
  | cons y out =>
    obtain ⟨hy, hout⟩ := List.isChain_cons_cons.1 h
    exact List.isChain_cons_cons.2 ⟨himp y hy, hout⟩

/-- A turn leaves a settled list settled; the lists stand last command first here (45_codec_b_matcher.md R335). -/
theorem optimizeStep_settled {out : List Cmd} (h : out.IsChain fun c x => Settled x c) (c : Cmd) :
    (optimizeStep out c).IsChain fun c x => Settled x c := by
  cases out with
  | nil => exact .singleton c
  | cons x out =>
    obtain ⟨hmerge, hstep⟩ | ⟨hsame, hover, hstep⟩ | ⟨habsorbs, hsame, hstep⟩ := optimizeStep_cons_cases x c out <;>
      rw [hstep]
    · have hcopy : x.body.isCopy = false := by
        rcases hmerge with habsorbs | ⟨hsame, -⟩
        · obtain ⟨hlit, -⟩ := absorbs_iff.1 habsorbs
          rw [hlit]
          rfl
        · rw [← (sameKind_body hsame).1]
          exact isCopy_of_sameKind hsame
      exact isChain_settled_replace h fun y hy => hy.of_length rfl rfl (fun hpos => Nat.add_pos_left hpos _) hcopy
    · have hcopy := isCopy_of_sameKind hsame
      have hxcopy : x.body.isCopy = false := by rwa [← (sameKind_body hsame).1]
      refine List.isChain_cons_cons.2 ⟨⟨absorbs_eq_false_of_not_copy hcopy, fun _ => ⟨rfl, ?_⟩⟩, ?_⟩
      · have hmax : Config.maxLen = 1024 := rfl
        dsimp only
        omega
      · exact isChain_settled_replace h fun y hy => hy.of_length rfl rfl (fun _ => Nat.succ_pos 1023) hxcopy
    · exact List.isChain_cons_cons.2 ⟨⟨habsorbs, fun h => absurd h (by simp [hsame])⟩, h⟩

/-- What the optimizer leaves is settled (45_codec_b_matcher.md R335). -/
theorem optimize_settled (l : List Cmd) : (optimize l).IsChain Settled := by
  have hfold : ∀ (l out : List Cmd), out.IsChain (fun c x => Settled x c) →
      (l.foldl optimizeStep out).IsChain fun c x => Settled x c := by
    intro l
    induction l with
    | nil => exact fun out h => h
    | cons c cs ih => exact fun out h => ih _ (optimizeStep_settled h c)
  exact List.isChain_reverse.2 (hfold l [] .nil)

/-- A turn adds a command that is settled against the one before it and stands right after it: where the two are split at
the largest length, they are split as they are (45_codec_b_matcher.md R334). -/
theorem optimizeStep_of_settled {x c : Cmd} (out : List Cmd) (h : Settled x c) (hnext : c.pos = x.pos + x.len) :
    optimizeStep (x :: out) c = c :: x :: out := by
  obtain ⟨habsorbs, hsame⟩ := h
  have hmaxLen : Config.maxLen = 1024 := rfl
  obtain ⟨h | ⟨h, hfits⟩, -⟩ | ⟨h, hover, hstep⟩ | ⟨-, -, hstep⟩ := optimizeStep_cons_cases x c out
  · cases habsorbs.symm.trans h
  · obtain ⟨hmax, hover⟩ := hsame h
    omega
  · obtain ⟨hmax, -⟩ := hsame h
    rw [hstep, hmax, hmaxLen, Nat.add_sub_cancel_left, ← hmax, ← hnext]
  · exact hstep

/-- The optimizer keeps a settled list that covers the input without gaps (45_codec_b_matcher.md R335, R336). -/
theorem optimize_of_settled {l : List Cmd} {i k : Nat} (hl : Tiles data i l k) (h : l.IsChain Settled) :
    optimize l = l := by
  have hfold : ∀ (l : List Cmd) (x : Cmd) (out : List Cmd), Tiles data (x.pos + x.len) l k → (x :: l).IsChain Settled →
      l.foldl optimizeStep (x :: out) = l.reverse ++ x :: out := by
    intro l
    induction l with
    | nil => exact fun x out _ _ => rfl
    | cons c cs ih =>
      rintro x out ⟨hpos, -, hcs⟩ hchain
      obtain ⟨hc, hchain⟩ := List.isChain_cons_cons.1 hchain
      rw [List.foldl_cons, optimizeStep_of_settled out hc hpos, ih c (x :: out) (hpos ▸ hcs) hchain, List.reverse_cons,
        List.append_assoc]
      rfl
  cases l with
  | nil => rfl
  | cons x l =>
    obtain ⟨rfl, -, hl⟩ := hl
    rw [optimize, List.foldl_cons, optimizeStep, hfold l x [] hl h, List.reverse_append, List.reverse_reverse]
    rfl

/-! ### The matcher's list with the largest literal cap -/

/-- The choice after a literal run that has not reached the cap is a candidate that saves (45_codec_b_matcher.md R327). -/
theorem chooseAt_after_literal (hlegal : P.legal) {i : Nat} (hi : i < data.length)
    (hbest : (P.litStop : Int) ≤ bestSavings P data i) :
    IsCandidate P data i (chooseAt P data i) ∧ 0 < savings (chooseAt P data i) := by
  obtain ⟨b, hb, hcand, -⟩ := bestAt_eq P hi
  rw [bestSavings_of_eq hb] at hbest
  have hcases := chooseAt_cases hlegal hi hb
  obtain ⟨-, -, -, -, -, hstop, -⟩ := hlegal
  obtain ⟨-, h⟩ | ⟨hworse, -⟩ := hcases
  · rw [h]
    exact ⟨hcand, by omega⟩
  · omega

/-- With the largest cap, what is chosen after a literal run is settled against it (45_codec_b_matcher.md R336). -/
theorem settled_literal (hlegal : P.legal) (hcap : P.litCap = 1024) {i len : Nat} (hrun : LiteralRun P data i 1 len)
    (hnext : i + len < data.length) :
    Settled { body := .lit, len := len, pos := i } (chooseAt P data (i + len)) := by
  obtain ⟨-, hvalid⟩ := chooseAt_valid hlegal hnext
  have hnonempty := hvalid.nonempty
  have hmaxLen : Config.maxLen = 1024 := rfl
  rcases hrun.stop with hend | hmax | ⟨-, hbest⟩
  · omega
  · refine ⟨?_, fun _ => ⟨hmax.trans hcap, by dsimp only; omega⟩⟩
    rw [← Bool.not_eq_true, absorbs_iff]
    rintro ⟨-, -, -, hfits⟩
    dsimp only at hfits
    omega
  · obtain ⟨hcand, hsaves⟩ := chooseAt_after_literal hlegal hnext hbest
    refine ⟨?_, fun hsame => ?_⟩
    · rw [← Bool.not_eq_true, absorbs_iff]
      rintro ⟨-, -, hcost, -⟩
      rw [savings, hcost] at hsaves
      omega
    · have hoffered := hcand.offered
      rw [(sameKind_body hsame).1] at hoffered
      exact hoffered.elim

/-- A run of one byte ends where the next byte differs, unless it has the largest length (45_codec_b_matcher.md R323). -/
theorem settled_candidate {i : Nat} {x c : Cmd} (hx : IsCandidate P data i x) (hc : c.Valid data)
    (hnext : c.pos = i + x.len) : Settled x c := by
  have hnonempty := hc.nonempty
  have hroom := hc.room
  have hoffered := hx.offered
  refine ⟨?_, fun hsame => ?_⟩
  · rw [← Bool.not_eq_true, absorbs_iff]
    rintro ⟨hlit, -⟩
    rw [hlit] at hoffered
    exact hoffered
  · obtain ⟨hbody, hkind⟩ := sameKind_body hsame
    have hcovers := hc.covers
    have hlongest := hx.longest
    rw [hbody] at hcovers
    rcases hlongest with hmax | hend | hstop
    · exact ⟨hmax, by omega⟩
    · omega
    · refine absurd ?_ hstop
      rcases hkind with hkind | hkind | ⟨b, hkind⟩ <;> rw [hkind] at hcovers hoffered ⊢
      · exact hoffered.elim
      all_goals
        have h := hcovers nofun 0 hnonempty
        rwa [hnext] at h

theorem Greedy.settled (hlegal : P.legal) (hcap : P.litCap = 1024) {i : Nat} {l : List Cmd} (h : Greedy P data i l) :
    l.IsChain Settled := by
  induction l generalizing i with
  | nil => exact .nil
  | cons x l ih =>
    obtain ⟨hi, hx, hl⟩ := h
    have hchain := ih hl
    cases l with
    | nil => exact .singleton x
    | cons c l =>
      refine List.isChain_cons_cons.2 ⟨?_, hchain⟩
      obtain ⟨hnext, rfl, -⟩ := hl
      obtain ⟨hpos, hvalid⟩ := chooseAt_valid hlegal hnext
      obtain ⟨b, hb, hcand, -⟩ := bestAt_eq P hi
      obtain ⟨-, hchoose⟩ | ⟨-, len, hchoose, hrun⟩ := chooseAt_cases hlegal hi hb <;> obtain rfl := hx.trans hchoose
      · exact settled_candidate hcand hvalid hpos
      · exact settled_literal hlegal hcap hrun hnext

theorem matchAll_tiles (hlegal : P.legal) (data : List Byte) : Tiles data 0 (matchAll P data) data.length :=
  (greedy_matchAll hlegal data).tiles hlegal

end

/-- Settles O56: what the optimizer leaves is settled and without gaps, and such a list it keeps. -/
theorem optimizerIsIdempotent : Obligations.OptimizerIsIdempotent := by
  unfold Obligations.OptimizerIsIdempotent
  intro P data hlegal
  have hsettled := optimize_settled (matchAll P data)
  exact ⟨optimize_of_settled (optimize_tiles (matchAll_tiles hlegal data)) hsettled, hsettled⟩

/-- Settles O57: with the largest literal cap the matcher's own list is settled. -/
theorem optimizerKeepsMatcherLists : Obligations.OptimizerKeepsMatcherLists := by
  unfold Obligations.OptimizerKeepsMatcherLists
  intro P data hlegal hcap
  exact optimize_of_settled (matchAll_tiles hlegal data) ((greedy_matchAll hlegal data).settled hlegal hcap)

end Sys2Proof.Machine
end

section
/-! SUPPORT. The Codec B round trip (45_codec_b_matcher.md R352): the decoder rebuilds the input command by command. -/
namespace Sys2Proof.Machine

/-! ### What the serializer writes, as bits -/

section
variable {P : Params} {data : List Byte}

/-- Whole bytes hold a row's bits and nothing else (30_encoding.md R90). -/
theorem bitsOfBytes_encodeBytes {i : Instr} (h : rowBits i = 8 ∨ rowBits i = 16) : bitsOfBytes (encodeBytes i) = encode i := by
  obtain ⟨n, hn⟩ := bitsOfBytes_pack (encode i)
  have hlen := congrArg List.length hn
  rw [bitsOfBytes_length, pack_length, List.length_append, List.length_replicate, encode_length] at hlen
  obtain rfl : n = 0 := by omega
  rw [encodeBytes, hn, List.replicate_zero, List.append_nil]

theorem Body.kind_lt (body : Body) : body.kind < 7 := by
  cases body with
  | copy kind p => cases kind <;> simp [Body.kind]
  | _ => simp [Body.kind]

/-- A header is read back (30_encoding.md R100 to R102). -/
theorem decodeHeader_encodeHeader {kind len : Nat} (hkind : kind < 7) (hlo : 1 ≤ len) (hhi : len ≤ Config.maxLen)
    (rest : List Bool) :
    ∃ i, decodeHeader (bitsOfBytes (encodeHeader kind len) ++ rest) = .ok (i, rest) ∧ headerOf i = .command kind len := by
  rw [encodeHeader]
  split_ifs with hshort
  · refine ⟨shortRow kind len, ?_, ?_⟩
    · rw [bitsOfBytes_encodeBytes (.inl (rowBits_shortRow kind len)), encode_shortRow hkind]
      exact decodeHeader_encodeShort hkind ⟨hlo, hshort⟩ rest
    · interval_cases kind <;> rfl
  · refine ⟨longRow kind len, ?_, ?_⟩
    · rw [bitsOfBytes_encodeBytes (.inr (rowBits_longRow kind len)), encode_longRow hkind]
      exact decodeHeader_encodeLong hkind ⟨hlo, hhi⟩ rest
    · interval_cases kind <;> rfl

/-- An offset is read back as the source it names (44_codec_b_commands.md R273). -/
theorem decodeOffset_encodeOffset {cur p : Nat} (hp : p < cur) (hreach : cur - p ≤ 127 ∨ p ≤ 0x7FFF) (rest : List Bool) :
    ∃ i, decodeOffset (bitsOfBytes (encodeOffset cur p) ++ rest) = .ok (i, rest) ∧ offsetSource i cur = p := by
  rw [encodeOffset]
  split_ifs with hrel
  · refine ⟨.offRel (cur - p), ?_, ?_⟩
    · rw [bitsOfBytes_encodeBytes (.inl rfl)]
      exact decodeOffset_encode_offRel hrel rest
    · rw [offsetSource]
      omega
  · refine ⟨.offAbs p, ?_, rfl⟩
    rw [bitsOfBytes_encodeBytes (.inr rfl)]
    exact decodeOffset_encode_offAbs (hreach.resolve_left hrel) rest

/-! ### What a command appends -/

/-- Bytes that are those of the input at its position extend what has been rebuilt. -/
theorem take_append_eq_take {cur len : Nat} {bs : List Byte} (hlen : bs.length = len) (hroom : cur + len ≤ data.length)
    (h : ∀ j, j < len → bs.getD j 0 = data.getD (cur + j) 0) : data.take cur ++ bs = data.take (cur + len) := by
  have hbs : bs = (data.drop cur).take len := by
    refine List.ext_getElem (by simp; omega) fun j hj _ => ?_
    have hget := h j (hlen ▸ hj)
    simpa [List.getD_eq_getElem?_getD, hj, show cur + j < data.length by omega] using hget
  rw [hbs, List.take_add]

/-- A forward copy whose bytes are those of the input extends what has been rebuilt, its own bytes included
(44_codec_b_commands.md R297, R298, R300). -/
theorem copyForward_take {f : Byte → Byte} {n src cur : Nat} (hsrc : src < cur) (hroom : cur + n ≤ data.length)
    (h : ∀ j, j < n → f (data.getD (src + j) 0) = data.getD (cur + j) 0) :
    copyForward f n src (data.take cur) = data.take (cur + n) := by
  induction n generalizing src cur with
  | zero => rfl
  | succ n ih =>
    have hfirst : data.take cur ++ [f ((data.take cur).getD src 0)] = data.take (cur + 1) := by
      refine take_append_eq_take rfl (by omega) fun j hj => ?_
      obtain rfl : j = 0 := by omega
      rw [← h 0 (Nat.succ_pos n), List.getD_cons_zero]
      simp [List.getD_eq_getElem?_getD, hsrc]
    rw [copyForward, hfirst, ih (Nat.succ_lt_succ hsrc) (by omega) fun j hj => ?_]
    · rw [Nat.succ_add, Nat.add_succ]
    · have hnext := h (j + 1) (Nat.succ_lt_succ hj)
      rwa [← Nat.add_assoc, ← Nat.add_assoc, Nat.add_right_comm, Nat.add_right_comm cur] at hnext

/-- A copy whose bytes are those of the input extends what has been rebuilt (44_codec_b_commands.md R297 to R299). -/
theorem copyBytes_take {kind : CopyKind} {len p cur : Nat} (hp : p < cur) (hroom : cur + len ≤ data.length)
    (h : ∀ j, j < len → (Body.copy kind p).Covers data cur j) :
    copyBytes kind len p (data.take cur) = data.take (cur + len) := by
  cases kind with
  | rep => exact copyForward_take hp hroom h
  | flip => exact copyForward_take hp hroom h
  | reverse =>
    have hcur : (data.take cur).length = cur := by rw [List.length_take]; omega
    rcases Nat.eq_zero_or_pos len with rfl | hpos
    · rfl
    obtain ⟨hlast, -⟩ := h (len - 1) (by omega)
    rw [copyBytes, copyBackward_eq len p _ (by omega) (by omega)]
    refine take_append_eq_take (by simp) hroom fun j hj => ?_
    obtain ⟨-, hj'⟩ := h j hj
    rw [← hj']
    simp [List.getD_eq_getElem?_getD, List.getElem?_take, hj, show p - j < cur by omega]

/-- The source and the range of a valid copy pass the check (44_codec_b_commands.md R301). -/
theorem offsetOk_of_covers {kind : CopyKind} {len p cur : Nat} (hlen : 1 ≤ len) (hp : p < cur)
    (h : ∀ j, j < len → (Body.copy kind p).Covers data cur j) : offsetOk kind p len cur = true := by
  have hin : (p : Int) < cur := by omega
  cases kind with
  | rep | flip => simp [offsetOk, hin]
  | reverse =>
    obtain ⟨hlast, -⟩ := h (len - 1) (by omega)
    simp [offsetOk, hin]
    omega

theorem appendFits_of_le {out bs : List Byte} (h : out.length + bs.length ≤ P.bufSize) :
    appendFits P out bs = .ok (out ++ bs) :=
  if_neg (not_lt.2 h)

/-- A copy whose offset is read, allowed and fits (44_codec_b_commands.md R297 to R303). -/
theorem runCommand_copy {kind : CopyKind} {p len : Nat} {out : List Byte} {bits rest : List Bool} {i : Instr}
    (hdec : decodeOffset bits = .ok (i, rest)) (hsource : offsetSource i out.length = p)
    (hok : offsetOk kind p len out.length = true) (hfits : out.length + len ≤ P.bufSize) :
    runCommand P (Body.copy kind p).kind len out bits = .ok (copyBytes kind len p out, rest) := by
  cases kind <;> simp [runCommand, Body.kind, copyKindOf, hdec, hsource, hok, not_lt.2 hfits]

/-- The payload of a valid command runs the decoder on to the end of what it covers (44_codec_b_commands.md R293 to R303). -/
theorem runCommand_payloadBytes (hfits : data.length ≤ P.bufSize) {c : Cmd} (hc : c.Valid data) (rest : List Byte) :
    runCommand P c.body.kind c.len (data.take c.pos) (bitsOfBytes (payloadBytes data c ++ rest)) =
      .ok (data.take (c.pos + c.len), bitsOfBytes rest) := by
  obtain ⟨body, len, pos⟩ := c
  obtain ⟨hlen, -, hroom, hcovers, hreach⟩ := hc
  dsimp only at *
  have hpos : (data.take pos).length = pos := by rw [List.length_take]; omega
  have happend : ∀ bs : List Byte, bs.length = len → (∀ j, j < len → bs.getD j 0 = data.getD (pos + j) 0) →
      appendFits P (data.take pos) bs = .ok (data.take (pos + len)) := fun bs hbs h => by
    rw [appendFits_of_le (by omega), take_append_eq_take hbs hroom h]
  have hread : ∀ (bs : List Byte) (n : Nat), bs.length = n →
      readBytes n (bitsOfBytes (bs ++ rest)) = .ok (bs, bitsOfBytes rest) := fun bs n hn => by
    rw [readBytes_of_le (by simp [hn]), List.take_left' hn, List.drop_left' hn]
  cases body with
  | lit =>
    have hbs : ((data.drop pos).take len).length = len := by simp; omega
    simp only [runCommand, Body.kind, payloadBytes, hread _ _ hbs, except_ok_bind]
    rw [happend _ hbs fun j hj => by simp [List.getD_eq_getElem?_getD, hj]]
    rfl
  | iter b =>
    have hcovers := hcovers nofun
    simp only [runCommand, Body.kind, payloadBytes, hread [byteAt data pos] 1 rfl, except_ok_bind]
    rw [happend _ List.length_replicate fun j hj => ?_]
    · rfl
    · have hfirst : byteAt data pos = b := hcovers 0 hlen
      have hj' : data.getD (pos + j) 0 = b := hcovers j hj
      simp [List.getD_eq_getElem?_getD, hj, hfirst] at hj' ⊢
      exact hj'.symm
  | alt a b =>
    have hcovers := hcovers nofun
    simp only [runCommand, Body.kind, payloadBytes, hread [byteAt data pos, byteAt data (pos + 1)] 2 rfl, except_ok_bind]
    rw [happend _ (by simp) fun j hj => ?_]
    · rfl
    · have hfirst : byteAt data pos = a := hcovers 0 hlen
      have hj' := hcovers j hj
      rw [Body.Covers] at hj'
      rw [hj', List.getD_eq_getElem?_getD, List.getElem?_map, List.getElem?_range hj]
      rcases Nat.mod_two_eq_zero_or_one j with heven | hodd
      · simp [heven, hfirst]
      · have hsecond : byteAt data (pos + 1) = b := hcovers 1 (by omega)
        simp [hodd, hsecond]
  | zero =>
    have hcovers := hcovers nofun
    simp only [runCommand, Body.kind, payloadBytes, List.nil_append]
    rw [happend _ List.length_replicate fun j hj => ?_]
    · rfl
    · have hj' : data.getD (pos + j) 0 = 0 := hcovers j hj
      rw [hj']
      simp [List.getD_eq_getElem?_getD, hj]
  | copy kind p =>
    have hcovers := hcovers nofun
    obtain ⟨hp, hreach⟩ := hreach kind p rfl
    obtain ⟨i, hdec, hsource⟩ := decodeOffset_encodeOffset hp hreach (bitsOfBytes rest)
    rw [payloadBytes, bitsOfBytes_append,
      runCommand_copy hdec (by rw [hpos, hsource]) (by rw [hpos]; exact offsetOk_of_covers hlen hp hcovers) (by omega),
      copyBytes_take hp hroom hcovers]

/-! ### The whole stream -/

/-- A valid command, as the serializer writes it, runs the decoder on to the end of what it covers
(44_codec_b_commands.md R290). -/
theorem bDecodeFrom_encodeCmd (hfits : data.length ≤ P.bufSize) {c : Cmd} (hc : c.Valid data) (fuel : Nat)
    (rest : List Byte) :
    bDecodeFrom P (fuel + 1) (data.take c.pos) (bitsOfBytes (encodeCmd data c ++ rest)) =
      bDecodeFrom P fuel (data.take (c.pos + c.len)) (bitsOfBytes rest) := by
  obtain ⟨i, hdec, hheader⟩ := decodeHeader_encodeHeader c.body.kind_lt hc.nonempty hc.bounded
    (bitsOfBytes (payloadBytes data c ++ rest))
  rw [encodeCmd, List.append_assoc, bitsOfBytes_append, bDecodeFrom, hdec]
  simp only [except_ok_bind, hheader, runCommand_payloadBytes hfits hc]

/-- The commands that cover the input, and the sentinel, decode to it (44_codec_b_commands.md R290, R304). -/
theorem bDecodeFrom_tiles (hfits : data.length ≤ P.bufSize) {i : Nat} {cmds : List Cmd}
    (h : Tiles data i cmds data.length) :
    bDecodeFrom P (cmds.length + 1) (data.take i) (bitsOfBytes (cmds.flatMap (encodeCmd data) ++ [Config.sentinel])) =
      .ok data := by
  induction cmds generalizing i with
  | nil =>
    have hi : i = data.length := h
    have hstop : decodeHeader (bitsOfBytes ([] ++ [Config.sentinel])) = .ok (.stop, []) := decodeHeader_stop [] rfl
    rw [List.flatMap_nil, bDecodeFrom, hstop, hi, List.take_length]
    rfl
  | cons c cs ih =>
    obtain ⟨rfl, hc, hcs⟩ := h
    rw [List.flatMap_cons, List.append_assoc, List.length_cons, bDecodeFrom_encodeCmd hfits hc]
    exact ih hcs

/-- A command takes at least a byte (30_encoding.md R100). -/
theorem length_le_flatMap_encodeCmd (data : List Byte) (cmds : List Cmd) :
    cmds.length ≤ (cmds.flatMap (encodeCmd data)).length := by
  induction cmds with
  | nil => exact le_rfl
  | cons c cs ih =>
    have hheader : 1 ≤ headerSize c.len := by
      rw [headerSize]
      split_ifs <;> decide
    rw [List.flatMap_cons, List.length_append, encodeCmd, List.length_append, encodeHeader_length, List.length_cons]
    omega

/-- What the serializer writes of commands that cover the input decodes to it, whatever the alignment
(45_codec_b_matcher.md R345, 44_codec_b_commands.md R304). -/
theorem bDecode_serialize (hfits : data.length ≤ P.bufSize) {cmds : List Cmd} (h : Tiles data 0 cmds data.length)
    (align : Nat) : bDecode P (serialize data cmds align) = .ok data := by
  have hlen := length_le_flatMap_encodeCmd data cmds
  have hdecodes := bDecodeFrom_tiles hfits h
  rw [List.take_zero] at hdecodes
  rw [bDecode, serialize, bitsOfBytes_append]
  exact bDecodeFrom_append _ (by rw [List.length_append, List.length_append, List.length_singleton]; omega) hdecodes

end

/-- Settles O55: the optimizer's list covers the input without gaps, and the empty input is the sentinel alone. -/
theorem codecBRoundTrip : Obligations.CodecBRoundTrip := by
  unfold Obligations.CodecBRoundTrip
  intro P data align hlegal hfits _
  cases data with
  | nil => rfl
  | cons b bs =>
    rw [bCompress_of_ne_nil P (List.cons_ne_nil b bs)]
    exact bDecode_serialize hfits (optimize_tiles (matchAll_tiles hlegal _)) align

end Sys2Proof.Machine
end
